-- ==== Sys2Proof/Word.lean ====
section
/-! DEFINITION. The vectors of the core (00_scope.md R3, R5): unsigned bit vectors of fixed width. -/

namespace Sys2Proof

/-- 8 bits (R3). -/
abbrev Byte := BitVec 8

/-- 32 bits, four bytes, byte 0 most significant (R4). -/
abbrev Word := BitVec 32

/-- 128 bits, sixteen bytes, byte 0 most significant (R4): a block, a key, a round key, a flat state (R6). -/
abbrev Block := BitVec 128

/-- The key schedule `KS`: 44 words (R3, R11). -/
abbrev KeySchedule := Vector Word 44

end Sys2Proof
end

