-- ==== Sys2Proof/Config.lean ====
section
/-! DEFINITION. What an implementation fixes (`HAS_TRACE`) and the free values: constants without a body, of which
nothing can be proved. -/

namespace Sys2Proof

/-- The one open parameter of the spec (D14, U12): is the trace port of R155 present?  Default: it is not. -/
structure Config where
  hasTrace : Bool := false
deriving DecidableEq, Repr

/-- The value of `S` after the reset edge at tick `n`: unspecified (R25, R161).  DESIGN CHOICE (log 2). -/
opaque Config.freeS (n : Nat) : Block

/-- The value of `KS[i]` after the reset edge at tick `n`: unspecified (R25, R161).  DESIGN CHOICE (log 2). -/
opaque Config.freeKS (n i : Nat) : Word

/-- `trace_round` at tick `n` while `trace_valid = 0`: any value (R155, U4; log 9). -/
opaque Config.freeTraceRound (n : Nat) : BitVec 4

/-- `trace_key` at tick `n` while `trace_valid = 0`: any value (R155, U4; log 9). -/
opaque Config.freeTraceKey (n : Nat) : Block

/-- `trace_state` at tick `n` while `trace_valid = 0`: any value (R155, U4; log 9). -/
opaque Config.freeTraceState (n : Nat) : Block

end Sys2Proof
end

