-- ==== Sys2Proof/Syntax.lean ====
section
/-! DEFINITION. The two levels of instruction (30_encoding.md R45), as terms: one constructor for each row of
spec/opcode_table.json.  Then the spec's two written forms: micro-operation listings (R59) and command scripts (R58). -/

namespace Sys2Proof

/-- The value of the 3-bit phase register `PH` (10_state.md R14): it names the micro-operation of the coming edge.  All
eight codes have a name (R50). -/
inductive Phase where
  | idle | expand | invert | ark | sub | shift | mix | store
deriving DecidableEq, Repr

/-- One constructor for each row of the opcode table.

Format CMD, the 258-bit command word on the input ports (R46): `nop`, `enc`, `dec`.
Format ACCEPT, the 6-bit value `{start, op, OPR, PH}` (R51): `load`.
Format UOP, the 4-bit value `{OPR, PH}` (R49): the others; a row whose pattern holds the letter `d` carries that bit,
which is the value of `OPR`. -/
inductive Instr where
  /-- NOP: `start = 0`; the other bits of the word are ignored (R47). -/
  | nop (op : Bool) (key block : Block)
  /-- ENC: `{start, op} = 10` (R47, R129). -/
  | enc (key block : Block)
  /-- DEC: `{start, op} = 11` (R47, R134). -/
  | dec (key block : Block)
  /-- IDLE: `d000` with `start = 0` (R115). -/
  | idle (opr : Bool)
  /-- LOAD: `1od000`, with `o` the port `op` and `d` the old `OPR` (R113). -/
  | load (op opr : Bool)
  /-- EXPAND: `d001` (R116). -/
  | expand (opr : Bool)
  /-- INVERT: `1010` (R117). -/
  | invert
  /-- ARK: `d011` (R118). -/
  | ark (opr : Bool)
  /-- SUB: `0100` (R119). -/
  | sub
  /-- ISUB: `1100` (R120). -/
  | isub
  /-- SHIFT: `0101` (R121). -/
  | shift
  /-- ISHIFT: `1101` (R122). -/
  | ishift
  /-- MIX: `0110` (R123). -/
  | mix
  /-- IMIX: `1110` (R124). -/
  | imix
  /-- STORE: `d111` (R126). -/
  | store (opr : Bool)
deriving DecidableEq, Repr

/-- A line of a micro-operation listing (R59): the micro-operation and the value of `RND` before its edge. -/
structure Listed where
  op  : Instr
  rnd : Nat
deriving DecidableEq, Repr

/-- A line of a command script (R58). -/
inductive ScriptLine where
  | reset
  | enc (key block : Block)
  | dec (key block : Block)
  | nop (n : Nat)
  | wait
deriving DecidableEq, Repr

end Sys2Proof
end

