-- ==== Sys2Proof/Machine/State.lean ====
section
/-! DEFINITION. The state of the core: the seven registers of 10_state.md, and beside them what the environment drives on
the input ports.  Plain data. -/

namespace Sys2Proof.Machine

/-- The input ports at one rising edge of `clk` (10_state.md R22). -/
structure Pins where
  /-- `rst`: synchronous reset, active high -/
  rst     : Bool
  /-- `start`: command strobe -/
  start   : Bool
  /-- `op`: 0 ENC, 1 DEC -/
  op      : Bool
  /-- `key` -/
  key     : Block
  /-- `block_in` -/
  blockIn : Block
deriving DecidableEq, Repr

/-- No reset and no command (R165 (3)): what the ports carry where the script says nothing.  DESIGN CHOICE (log 1). -/
def Pins.quiet : Pins := { rst := false, start := false, op := false, key := 0#128, blockIn := 0#128 }

/-- The registers `S`, `KS`, `OUT`, `OPR`, `PH`, `RND`, `DONE` (R10 to R16), then the model's own fields: the inputs, which
the spec calls free inputs of each step and not state (R20), and the counter of the free values. -/
structure State where
  /-- `S`, the state register in flat form: byte `r + 4c` is `S[r][c]` (R10, R6) -/
  S      : Block
  /-- `KS[0..43]`, the key-schedule register file (R11) -/
  KS     : KeySchedule
  /-- `OUT`, the output register (R12) -/
  OUT    : Block
  /-- `OPR`, the direction: 0 ENC, 1 DEC (R13) -/
  OPR    : Bool
  /-- `PH`, the phase: the micro-operation of the coming edge (R14) -/
  PH     : Phase
  /-- `RND`, the index of the round key the next ARK uses (R15) -/
  RND    : BitVec 4
  /-- `DONE`, the completion flag (R16) -/
  DONE   : Bool
  /-- the input ports at the coming edge (log 1) -/
  pins   : Pins
  /-- the input ports at the edges after it, oldest first; after the last they are quiet (log 1) -/
  script : List Pins
  /-- how many edges have passed: the number of the next free value (log 3) -/
  tick   : Nat
deriving DecidableEq, Repr

/-- The core raises no fault (R146).  `step` and `exec` never answer with one. -/
inductive Fault where
  /-- DOC0's `InvalidLength`: a block or a key that is not 16 bytes long (R147, U10).  Raised only by the byte-sequence
  wrapper of Machine/Wrapper.lean, before any register changes.  Safe: the core's ports cannot carry such a value. -/
  | invalidLength
deriving DecidableEq, Repr

inductive Refusal where
  /-- An instruction that has no meaning in the model.  Raised by `exec`'s arms; none is left.  Safe. -/
  | notModelled (mnemonic : String)
  /-- A controller state that no run from reset reaches: the code `0010`, `RND` in 11..15, or a combination of `PH`, `RND`
  and `OPR` outside the traces.  The spec gives it no meaning and says to refuse it (R54, R55, D20, U3; log 4).  Raised by
  `fetch` and by the meanings.  Safe. -/
  | unreachableController
  /-- `exec` was asked for a micro-operation whose code the registers and ports do not hold (R49: the code in force says
  what the edge does).  Raised by the meanings of micro-operations; `step` never meets it (log 5).  Safe. -/
  | notInForce
deriving DecidableEq, Repr

/-- The state right after reset: the state that a reset edge at tick 0 leaves (R25, R161), with quiet ports.  `S` and `KS`
are unspecified there, so they hold the free values numbered 0 (DESIGN CHOICE, log 2). -/
def State.reset : State where
  S := Config.freeS 0
  KS := Vector.ofFn fun i => Config.freeKS 0 i.val
  OUT := 0#128
  OPR := false
  PH := .idle
  RND := 0#4
  DONE := false
  pins := .quiet
  script := []
  tick := 1

end Sys2Proof.Machine
end

