-- ==== Sys2Proof/Machine/Flags.lean ====
section
/-! DEFINITION. Status and conditions of `round_controller`.  The core has no condition codes and no micro-operation writes
a flag as a side effect (10_state.md R18); what there is are the status outputs, the conditions that the controller tests,
the direction of the round counter, and the set of controller states that runs reach. -/

namespace Sys2Proof.Machine

/-- `busy = (PH != IDLE)` (R17). -/
def State.busy (s : State) : Bool := s.PH != .idle

/-- `done = DONE` (R16). -/
def State.done (s : State) : Bool := s.DONE

/-- The last command is over, and its result is in `OUT`: `DONE = 1` and `PH = IDLE` (R172). -/
def State.commandOver (s : State) : Bool := s.DONE && s.PH == .idle

/-- `accept = start AND (PH == IDLE) AND NOT rst` (R23). -/
def State.accept (s : State) : Bool := s.pins.start && s.PH == .idle && !s.pins.rst

/-- The last round of the direction: `RND == 10` in ENC, `RND == 0` in DEC (R118, R121, R122). -/
def lastRound (opr : Bool) (rnd : BitVec 4) : Bool := if opr then rnd == 0#4 else rnd == 10#4

/-- The round after this one: up in ENC, down in DEC (R15, R118). -/
def nextRound (opr : Bool) (rnd : BitVec 4) : BitVec 4 := if opr then rnd - 1#4 else rnd + 1#4

/-- The controller states `(OPR, PH, RND)` that runs from reset reach: those of the traces R130 and R135, and the resting
states (R55).  Before the first ARK of a command `RND` still holds what the last command left, 10 or 0, or 0 from reset;
which of the two goes with which `OPR` is not told apart (log 4). -/
def reachable (opr : Bool) (ph : Phase) (rnd : BitVec 4) : Bool :=
  match ph, opr with
  | .idle, _ => rnd == 0#4 || rnd == 10#4
  | .expand, _ => rnd == 0#4 || rnd == 10#4
  | .invert, false => false
  | .invert, true => rnd == 0#4 || rnd == 10#4
  | .ark, _ => rnd.toNat ≤ 10
  | .sub, false => 1 ≤ rnd.toNat && rnd.toNat ≤ 10
  | .sub, true => rnd.toNat ≤ 9
  | .shift, false => 1 ≤ rnd.toNat && rnd.toNat ≤ 10
  | .shift, true => rnd.toNat ≤ 9
  | .mix, _ => 1 ≤ rnd.toNat && rnd.toNat ≤ 9
  | .store, false => rnd == 10#4
  | .store, true => rnd == 0#4

/-- The controller state is one that runs reach (R55). -/
def State.reachable (s : State) : Bool := Sys2Proof.Machine.reachable s.OPR s.PH s.RND

/-- How many edges the command in progress still takes, its STORE edge included: 43 or 44 less the edge's number in the
tables of R130 and R135; none in IDLE. -/
def edgesLeft (opr : Bool) (ph : Phase) (rnd : BitVec 4) : Nat :=
  match ph, opr with
  | .idle, _ => 0
  | .expand, false => 42
  | .expand, true => 43
  | .invert, _ => 42
  | .ark, false => if rnd = 10#4 then 2 else 41 - 4 * rnd.toNat
  | .ark, true => if rnd = 0#4 then 2 else 1 + 4 * rnd.toNat
  | .sub, false => 44 - 4 * rnd.toNat
  | .sub, true => 4 + 4 * rnd.toNat
  | .shift, false => 43 - 4 * rnd.toNat
  | .shift, true => 3 + 4 * rnd.toNat
  | .mix, false => 42 - 4 * rnd.toNat
  | .mix, true => 2 + 4 * rnd.toNat
  | .store, _ => 1

/-- How many edges the command in progress still takes. -/
def State.edgesLeft (s : State) : Nat := Sys2Proof.Machine.edgesLeft s.OPR s.PH s.RND

end Sys2Proof.Machine
end

