-- ==== Sys2Proof/WellFormed.lean ====
section
/-! DEFINITION. Well-formed instructions, listing lines and scripts.  An instruction is well formed by its type: every
field takes every value its width has (30_encoding.md R48, R53, R56).  What can be ill formed is a listing line. -/

namespace Sys2Proof

/-- Every term of `Instr` has an encoding: both values of `op` are legal (R53), any key and block are accepted (R113), and
no field is reserved (R56).  The meaningless code `0010` (R54) is no term. -/
def Instr.wellFormed (i : Instr) : Bool :=
  match i with
  | .nop _ _ _ => true
  | .enc _ _ => true
  | .dec _ _ => true
  | .idle _ => true
  | .load _ _ => true
  | .expand _ => true
  | .invert => true
  | .ark _ => true
  | .sub => true
  | .isub => true
  | .shift => true
  | .ishift => true
  | .mix => true
  | .imix => true
  | .store _ => true

/-- A listing names micro-operations, not commands (R59). -/
def Instr.isMicro (i : Instr) : Bool :=
  match i with
  | .nop _ _ _ | .enc _ _ | .dec _ _ => false
  | .idle _ | .load _ _ | .expand _ | .invert | .ark _ | .sub | .isub
  | .shift | .ishift | .mix | .imix | .store _ => true

/-- The values of `RND` before an edge that does micro-operation `i`, read off the tables of R130 and R135.  Outside a
round it is the left-over value: 0 after reset, 10 after an ENC, 0 after a DEC. -/
def Instr.rounds (i : Instr) : List Nat :=
  match i with
  | .nop _ _ _ | .enc _ _ | .dec _ _ => []
  | .idle _ | .load _ _ | .expand _ | .invert => [0, 10]
  | .ark _ => [0, 1, 2, 3, 4, 5, 6, 7, 8, 9, 10]
  | .sub | .shift => [1, 2, 3, 4, 5, 6, 7, 8, 9, 10]
  | .isub | .ishift => [0, 1, 2, 3, 4, 5, 6, 7, 8, 9]
  | .mix | .imix => [1, 2, 3, 4, 5, 6, 7, 8, 9]
  | .store false => [10]
  | .store true => [0]

/-- A line of a listing: a micro-operation, at a round the traces of R130 and R135 have it in. -/
def Listed.wellFormed (l : Listed) : Bool := l.op.isMicro && l.op.rounds.contains l.rnd

end Sys2Proof
end

