-- ==== Sys2Proof/Decode.lean ====
section
/-! DEFINITION. Encodings (30_encoding.md): the decoder, which rejects by name, and after it the encoder. -/

namespace Sys2Proof

/-- A code of one of the three formats of the opcode table (R51). -/
inductive Code where
  /-- the command word `{start, op, key, block_in}` (R46) -/
  | cmd (w : BitVec 258)
  /-- `{OPR, PH}` (R49) -/
  | uop (c : BitVec 4)
  /-- `{start, op, OPR, PH}` at an edge with `rst = 0` (R51) -/
  | accept (c : BitVec 6)
deriving DecidableEq, Repr

/-- Why a code is rejected. -/
inductive DecodeError where
  /-- `UOP = 0010`, phase INVERT with `OPR = 0`: it has no meaning (R54). -/
  | invertForward
  /-- A 6-bit value that is not of the form `1od000`: no row of format ACCEPT (R51). -/
  | notAnAccept
  /-- A number that is no code of any of the three formats. -/
  | notACode (nbits w : Nat)
deriving DecidableEq, Repr

/-- Phase encoding, all eight codes (R50). -/
def Phase.ofBits (b : BitVec 3) : Phase :=
  match b.toNat with
  | 0 => .idle
  | 1 => .expand
  | 2 => .invert
  | 3 => .ark
  | 4 => .sub
  | 5 => .shift
  | 6 => .mix
  | _ => .store

/-- Field `key` of the command word, bits 255:128 (R46). -/
def commandKey (w : BitVec 258) : Block := w.extractLsb' 128 128

/-- Field `block_in` of the command word, bits 127:0 (R46). -/
def commandBlock (w : BitVec 258) : Block := w.extractLsb' 0 128

/-- Field `op` of the command word, bit 256 (R46). -/
def commandOp (w : BitVec 258) : Bool := w.getLsbD 256

/-- Field `start` of the command word, bit 257 (R46). -/
def commandStart (w : BitVec 258) : Bool := w.getLsbD 257

/-- The command selector `{start, op}` (R47); there is no illegal command word (R53). -/
def decodeCommand (w : BitVec 258) : Instr :=
  match commandStart w, commandOp w with
  | false, o => .nop o (commandKey w) (commandBlock w)
  | true, false => .enc (commandKey w) (commandBlock w)
  | true, true => .dec (commandKey w) (commandBlock w)

/-- Micro-operation codes `{OPR, PH[2:0]}` (R49, R51). -/
def decodeUop (c : BitVec 4) : Except DecodeError Instr :=
  match Phase.ofBits (c.extractLsb' 0 3), c.getLsbD 3 with
  | .idle, d => .ok (.idle d)
  | .expand, d => .ok (.expand d)
  | .invert, false => .error .invertForward
  | .invert, true => .ok .invert
  | .ark, d => .ok (.ark d)
  | .sub, false => .ok .sub
  | .sub, true => .ok .isub
  | .shift, false => .ok .shift
  | .shift, true => .ok .ishift
  | .mix, false => .ok .mix
  | .mix, true => .ok .imix
  | .store, d => .ok (.store d)

/-- Format ACCEPT: `1od000` (R51). -/
def decodeAccept (c : BitVec 6) : Except DecodeError Instr :=
  match c.getLsbD 5, Phase.ofBits (c.extractLsb' 0 3) with
  | true, .idle => .ok (.load (c.getLsbD 4) (c.getLsbD 3))
  | _, _ => .error .notAnAccept

/-- Decoding a code of a given format. -/
def decodeCode (c : Code) : Except DecodeError Instr :=
  match c with
  | .cmd w => .ok (decodeCommand w)
  | .uop c => decodeUop c
  | .accept c => decodeAccept c

/-- The micro-operation of an edge with `rst = 0`, from `{start, op, OPR, PH}` (R51, R127): LOAD when the phase is IDLE
and `start = 1`, else what the low four bits say.  In every other phase `start` and `op` are not read (R114). -/
def decodeEdge (c : BitVec 6) : Except DecodeError Instr :=
  match c.getLsbD 5, Phase.ofBits (c.extractLsb' 0 3) with
  | true, .idle => decodeAccept c
  | _, _ => decodeUop (c.extractLsb' 0 4)

/-- `2 ^ 258`, written out so that it need not be computed. -/
def commandBound : Nat := 0x40000000000000000000000000000000000000000000000000000000000000000

/-- A number of the opcode table as a code (log 6): 258 bits or more are a command word, made of its selector, its key and
its block; otherwise it is a UOP code if it fits in four bits, and an ACCEPT value if it needs the bits 5:4. -/
def codeOfTable (nbits w : Nat) : Except DecodeError Code :=
  if 258 ≤ nbits then
    if w < commandBound then
      .ok (.cmd (BitVec.ofNat 2 (w >>> 256) ++ BitVec.ofNat 128 (w >>> 128) ++ BitVec.ofNat 128 w))
    else .error (.notACode nbits w)
  else if w < 2 ^ 4 then .ok (.uop (BitVec.ofNat 4 w))
  else if w < 2 ^ 6 then .ok (.accept (BitVec.ofNat 6 w))
  else .error (.notACode nbits w)

/-- The decoder, total on numbers. -/
def decode (nbits w : Nat) : Except DecodeError Instr :=
  match codeOfTable nbits w with
  | .ok c => decodeCode c
  | .error e => .error e

/-- The instruction the decoder reads from a row's bits, numbered as the opcode table numbers them. -/
def decodeTableWord (nbits w : Nat) : Option Instr :=
  match decode nbits w with
  | .ok i => some i
  | .error _ => none

/-! ## The encoder -/

/-- Phase encoding (R50). -/
def Phase.bits (p : Phase) : BitVec 3 :=
  match p with
  | .idle => 0b000#3
  | .expand => 0b001#3
  | .invert => 0b010#3
  | .ark => 0b011#3
  | .sub => 0b100#3
  | .shift => 0b101#3
  | .mix => 0b110#3
  | .store => 0b111#3

/-- The 258-bit command word `{start, op, key, block_in}` (R46). -/
def commandWord (start op : Bool) (key block : Block) : BitVec 258 :=
  BitVec.ofBool start ++ BitVec.ofBool op ++ key ++ block

/-- `UOP = {OPR, PH[2:0]}` (R49). -/
def uopCode (opr : Bool) (ph : Phase) : BitVec 4 := BitVec.ofBool opr ++ ph.bits

/-- `{start, op, OPR, PH[2:0]}` (R51). -/
def edgeCode (start op opr : Bool) (ph : Phase) : BitVec 6 :=
  BitVec.ofBool start ++ BitVec.ofBool op ++ BitVec.ofBool opr ++ ph.bits

/-- The code of an instruction, from the tables of R47 and R51. -/
def encode (i : Instr) : Code :=
  match i with
  | .nop op key block => .cmd (commandWord false op key block)
  | .enc key block => .cmd (commandWord true false key block)
  | .dec key block => .cmd (commandWord true true key block)
  | .idle d => .uop (uopCode d .idle)
  | .load op d => .accept (edgeCode true op d .idle)
  | .expand d => .uop (uopCode d .expand)
  | .invert => .uop (uopCode true .invert)
  | .ark d => .uop (uopCode d .ark)
  | .sub => .uop (uopCode false .sub)
  | .isub => .uop (uopCode true .sub)
  | .shift => .uop (uopCode false .shift)
  | .ishift => .uop (uopCode true .shift)
  | .mix => .uop (uopCode false .mix)
  | .imix => .uop (uopCode true .mix)
  | .store d => .uop (uopCode d .store)

/-- How many bits a format has (R46, R49, R51). -/
def Code.width (c : Code) : Nat :=
  match c with
  | .cmd _ => 258
  | .uop _ => 4
  | .accept _ => 6

/-- The bits of a code as a number, bit 0 the least significant. -/
def Code.value (c : Code) : Nat :=
  match c with
  | .cmd w => w.toNat
  | .uop c => c.toNat
  | .accept c => c.toNat

end Sys2Proof
end

