-- ==== Sys2Proof/Machine/Bytes.lean ====
section
/-! DEFINITION. Bytes, words and cells of 128-bit vectors (00_scope.md R4, R6; 20_memory.md R35): big-endian throughout. -/

namespace Sys2Proof.Machine

/-- Byte `i` of a 128-bit vector: `v[127-8i : 120-8i]` (R4). -/
def byte (v : Block) (i : Fin 16) : Byte := v.extractLsb' (120 - 8 * i.val) 8

/-- Byte `k` of a word: `w[31-8k : 24-8k]` (R4). -/
def wordByte (w : Word) (k : Fin 4) : Byte := w.extractLsb' (24 - 8 * k.val) 8

/-- `word(b0, b1, b2, b3) = {b0, b1, b2, b3}`. -/
def word (b0 b1 b2 b3 : Byte) : Word := b0 ++ b1 ++ b2 ++ b3

/-- Word `c` of a 128-bit vector, bits `[127-32c : 96-32c]`: a key word (R35 item 2) or a column of a state (R83). -/
def column (v : Block) (c : Fin 4) : Word := v.extractLsb' (96 - 32 * c.val) 32

/-- The 128-bit vector of four words, word 0 first: `{f 0, f 1, f 2, f 3}`. -/
def ofColumns (f : Fin 4 → Word) : Block := f 0 ++ f 1 ++ f 2 ++ f 3

/-- The place of row `r`, column `c` in a flat state: byte `r + 4c` (R6). -/
def place (r c : Fin 4) : Fin 16 := ⟨r.val + 4 * c.val, by omega⟩

/-- The 128-bit vector of sixteen bytes, byte 0 first: word `c` holds the bytes `4c .. 4c+3`. -/
def ofBytes (f : Fin 16 → Byte) : Block :=
  ofColumns fun c => word (f (place 0 c)) (f (place 1 c)) (f (place 2 c)) (f (place 3 c))

/-- The row of byte `i`: `i mod 4` (R80). -/
def rowOf (i : Fin 16) : Fin 4 := ⟨i.val % 4, by omega⟩

/-- The column of byte `i`: `i div 4` (R80). -/
def colOf (i : Fin 16) : Fin 4 := ⟨i.val / 4, by omega⟩

/-- `s[r][c]` of a flat state (R6). -/
def cell (s : Block) (r c : Fin 4) : Byte := byte s (place r c)

/-- The flat state whose cell at row `r`, column `c` is `f r c` (R6). -/
def ofCells (f : Fin 4 → Fin 4 → Byte) : Block := ofBytes fun i => f (rowOf i) (colOf i)

end Sys2Proof.Machine
end

