-- ==== Sys2Proof/Machine/Gf28.lean ====
section
/-! DEFINITION. Arithmetic of GF(2^8) modulo `0x11B` (40_gf28.md): `gf28_double`, `gf28_multiply`. -/

namespace Sys2Proof.Machine

/-- `gf28_double` (R60): shift left by one, dropping bit 7, and XOR `0x1B` if the dropped bit was 1. -/
def gf28Double (a : Byte) : Byte :=
  if a.getLsbD 7 then (a <<< 1) ^^^ 0x1B#8 else a <<< 1

/-- `n` more iterations of the loop of R61, from product `p` and operands `a`, `b`. -/
def multiplyLoop (n : Nat) (p a b : Byte) : Byte :=
  match n with
  | 0 => p
  | n + 1 => multiplyLoop n (if b.getLsbD 0 then p ^^^ a else p) (gf28Double a) (b >>> 1)

/-- `gf28_multiply` (R61): all eight iterations. -/
def gf28Multiply (a b : Byte) : Byte := multiplyLoop 8 0x00#8 a b

end Sys2Proof.Machine
end

