-- ==== Sys2Proof/Machine/Round.lean ====
section
/-! DEFINITION. The state codec (42_state_codec.md) and the seven round transformations (43_round_transformations.md), as
functions of a flat state (00_scope.md R6, 10_state.md R24). -/

namespace Sys2Proof.Machine

/-- `to_state` (R80): byte `i` of the block goes to row `i mod 4`, column `i div 4`. -/
def toState (block : Block) : Block := ofCells fun r c => byte block (place r c)

/-- `from_state` (R81): `block[i] = s[i mod 4][i div 4]`. -/
def fromState (s : Block) : Block := ofBytes fun i => cell s (rowOf i) (colOf i)

/-- `subbytes_forward` (R86). -/
def subbytesForward (s : Block) : Block := ofCells fun r c => SBOX (cell s r c)

/-- `subbytes_inverse` (R87). -/
def subbytesInverse (s : Block) : Block := ofCells fun r c => ISBOX (cell s r c)

/-- `shiftrows_forward` (R88): `s'[r][c] = s[r][(c + r) mod 4]`; the addition of `Fin 4` is modulo 4. -/
def shiftrowsForward (s : Block) : Block := ofCells fun r c => cell s r (c + r)

/-- `shiftrows_inverse` (R89): `s'[r][c] = s[r][(c - r) mod 4]`; the subtraction of `Fin 4` is modulo 4. -/
def shiftrowsInverse (s : Block) : Block := ofCells fun r c => cell s r (c - r)

/-- `mixcol_f` (R90), on a column as a word, row 0 in byte 0 (R83). -/
def mixcolF (a : Word) : Word :=
  let m := gf28Multiply
  let a0 := wordByte a 0
  let a1 := wordByte a 1
  let a2 := wordByte a 2
  let a3 := wordByte a 3
  word (m 0x02 a0 ^^^ m 0x03 a1 ^^^ m 0x01 a2 ^^^ m 0x01 a3)
       (m 0x01 a0 ^^^ m 0x02 a1 ^^^ m 0x03 a2 ^^^ m 0x01 a3)
       (m 0x01 a0 ^^^ m 0x01 a1 ^^^ m 0x02 a2 ^^^ m 0x03 a3)
       (m 0x03 a0 ^^^ m 0x01 a1 ^^^ m 0x01 a2 ^^^ m 0x02 a3)

/-- `mixcol_i` (R91), on a column as a word. -/
def mixcolI (a : Word) : Word :=
  let m := gf28Multiply
  let a0 := wordByte a 0
  let a1 := wordByte a 1
  let a2 := wordByte a 2
  let a3 := wordByte a 3
  word (m 0x0E a0 ^^^ m 0x0B a1 ^^^ m 0x0D a2 ^^^ m 0x09 a3)
       (m 0x09 a0 ^^^ m 0x0E a1 ^^^ m 0x0B a2 ^^^ m 0x0D a3)
       (m 0x0D a0 ^^^ m 0x09 a1 ^^^ m 0x0E a2 ^^^ m 0x0B a3)
       (m 0x0B a0 ^^^ m 0x0D a1 ^^^ m 0x09 a2 ^^^ m 0x0E a3)

/-- `mixcolumns_forward` (R92). -/
def mixcolumnsForward (s : Block) : Block := ofColumns fun c => mixcolF (column s c)

/-- `mixcolumns_inverse` (R93). -/
def mixcolumnsInverse (s : Block) : Block := ofColumns fun c => mixcolI (column s c)

/-- `addroundkey` (R95): byte `r` of round-key word `c` against row `r` of column `c`; `rk = {k0, k1, k2, k3}`. -/
def addroundkey (s rk : Block) : Block := ofCells fun r c => cell s r c ^^^ wordByte (column rk c) r

end Sys2Proof.Machine
end

