-- ==== Sys2Proof/Machine/KeySchedule.lean ====
section
/-! DEFINITION. The functions of `aes_key_schedule` (44_key_schedule.md). -/

namespace Sys2Proof.Machine

/-- `RotWord` (R100): one byte to the left, cyclically. -/
def rotWord (w : Word) : Word := word (wordByte w 1) (wordByte w 2) (wordByte w 3) (wordByte w 0)

/-- `SubWord` (R101): the forward table on each byte. -/
def subWord (w : Word) : Word :=
  word (SBOX (wordByte w 0)) (SBOX (wordByte w 1)) (SBOX (wordByte w 2)) (SBOX (wordByte w 3))

/-- `RconWord(j) = zext_32(RCON[j]) << 24` (R102). -/
def rconWord (j : Fin 10) : Word := (RCON j).zeroExtend 32 <<< 24

/-- The word that the loop of R103 computes for index `i = n + 4`, from `w[i-1]` and `w[i-4]`. -/
def nextWord (w : KeySchedule) (n : Fin 40) : Word :=
  let temp := w[n.val + 3]
  w[n.val] ^^^
    if n.val % 4 = 0 then subWord (rotWord temp) ^^^ rconWord ⟨n.val / 4, by omega⟩ else temp

/-- The first `n` iterations of the loop of R103, in ascending order and in place (R107): words `4 .. n+3` written. -/
def expandLoop (w : KeySchedule) (n : Nat) (h : n ≤ 40) : KeySchedule :=
  match n with
  | 0 => w
  | n + 1 =>
    let w' := expandLoop w n (by omega)
    w'.set (n + 4) (nextWord w' ⟨n, by omega⟩)

/-- `expand_key`'s second loop (R103): words 4..43 from words 0..3. -/
def expandWords (w : KeySchedule) : KeySchedule := expandLoop w 40 (Nat.le_refl 40)

/-- Seeding words 0..3 from the key, big-endian (R35 item 2, R48, R113): `KS[j] <- key[127-32j : 96-32j]`. -/
def seedWords (key : Block) (w : KeySchedule) : KeySchedule :=
  (((w.set 0 (column key 0)).set 1 (column key 1)).set 2 (column key 2)).set 3 (column key 3)

/-- `expand_key` (R103) as a function of the key.  The words that `seedWords` starts from are overwritten before they
are read, so any will do. -/
def expandKey (key : Block) : KeySchedule := expandWords (seedWords key (Vector.replicate 44 0#32))

/-- `InvMixWord` (R105): `mixcol_i` on the four bytes of a word. -/
def invMixWord (w : Word) : Word := mixcolI w

/-- The key schedule with word `i` equal to `f i`. -/
def scheduleOf (f : Fin 44 → Word) : KeySchedule := ⟨((List.finRange 44).map f).toArray, by simp⟩

/-- `invert_for_decryption` (R106): words 4..39 through `InvMixWord`, the others copied. -/
def invertForDecryption (w : KeySchedule) : KeySchedule :=
  scheduleOf fun i => if 4 ≤ i.val ∧ i.val ≤ 39 then invMixWord w[i] else w[i]

/-- `RK(r) = {KS[4r], KS[4r+1], KS[4r+2], KS[4r+3]}` (R34), for `r` in 0..10. -/
def roundKey (w : KeySchedule) (r : Fin 11) : Block := ofColumns fun c => w[4 * r.val + c.val]

end Sys2Proof.Machine
end

