-- ==== Sys2Proof/Machine/Operands.lean ====
section
/-! DEFINITION. Operand assembly (30_encoding.md R46, R48, R49, R52): the command word on the ports, the code in force, the
operand of ARK. -/

namespace Sys2Proof.Machine

/-- The 258-bit command word that the input ports carry (R46). -/
def Pins.word (p : Pins) : BitVec 258 := commandWord p.start p.op p.key p.blockIn

/-- The ports that carry a command word, with `rst = 0` (R46). -/
def Pins.ofWord (w : BitVec 258) : Pins where
  rst := false
  start := commandStart w
  op := commandOp w
  key := commandKey w
  blockIn := commandBlock w

/-- `UOP = {OPR, PH[2:0]}` (R49). -/
def State.uop (s : State) : BitVec 4 := uopCode s.OPR s.PH

/-- `{start, op, OPR, PH[2:0]}` at the coming edge (R51, format ACCEPT). -/
def State.code (s : State) : BitVec 6 := edgeCode s.pins.start s.pins.op s.OPR s.PH

/-- The round key that `RND` selects, `RK(RND)` (R34, R52).  There are eleven; for `RND` in 11..15, which no run reaches
(R55), there is none. -/
def State.currentRoundKey (s : State) : Option Block :=
  if h : s.RND.toNat < 11 then some (roundKey s.KS ⟨s.RND.toNat, h⟩) else none

end Sys2Proof.Machine
end

