-- ==== Sys2Proof/Machine/Ops.lean ====
section
/-! DEFINITION. The shared operations: writing each register, the guard of the micro-operations, taking a command, the
reset edge, the environment's next sample, and the fetch.

The core takes no exception and returns from none (60_exceptions.md R146, R151, R152): the only way a command in progress
ends other than by STORE is the reset edge (R151), which is one shared operation here. -/

namespace Sys2Proof.Machine

/-- The outcomes of an edge. -/
abbrev Outcome := Host.Outcome State Fault Refusal

/-! ## Register writes -/

def State.setS (s : State) (v : Block) : State := { s with S := v }
def State.setKS (s : State) (v : KeySchedule) : State := { s with KS := v }
def State.setOUT (s : State) (v : Block) : State := { s with OUT := v }
def State.setOPR (s : State) (v : Bool) : State := { s with OPR := v }
def State.setPH (s : State) (v : Phase) : State := { s with PH := v }
def State.setRND (s : State) (v : BitVec 4) : State := { s with RND := v }
def State.setDONE (s : State) (v : Bool) : State := { s with DONE := v }
def State.setPins (s : State) (v : Pins) : State := { s with pins := v }
def State.setScript (s : State) (v : List Pins) : State := { s with script := v }
def State.setTick (s : State) (v : Nat) : State := { s with tick := v }

/-! ## The shared steps -/

/-- An edge from a controller state that runs reach; in the others the spec gives no meaning (R55, D20; log 4). -/
def fromReachable (s t : State) : Outcome :=
  if s.reachable then .next t else .refused .unreachableController

/-- An edge at which the code `{opr, ph}` must be the one in force (R49, R51; log 5). -/
def whenInForce (s : State) (opr : Bool) (ph : Phase) (t : State) : Outcome :=
  if s.OPR = opr ∧ s.PH = ph then fromReachable s t else .refused .notInForce

/-- LOAD's register writes (R113): the block into `S`, the key into `KS[0..3]`, the direction, `DONE` cleared. -/
def acceptCommand (op : Bool) (key block : Block) (s : State) : State :=
  ((((s.setS (toState block)).setKS (seedWords key s.KS)).setOPR op).setDONE false).setPH .expand

/-- The reset edge's register writes (R161).  `S` and `KS` are unspecified and take the free values of this tick. -/
def resetEdge (s : State) : State :=
  ((((((s.setPH .idle).setRND 0#4).setOPR false).setDONE false).setOUT 0#128).setS (Config.freeS s.tick)).setKS
    (Vector.ofFn fun i => Config.freeKS s.tick i.val)

/-- What the environment does at an edge: the next sample of the script comes to the ports, or quiet ones when the script
is over; and the free values move on (log 1, log 3).  No register of the core changes. -/
def advance (s : State) : State :=
  match s.script with
  | [] => (s.setPins .quiet).setTick (s.tick + 1)
  | p :: rest => ((s.setPins p).setScript rest).setTick (s.tick + 1)

/-- An outcome with `f` applied to its next state. -/
def onNext (o : Outcome) (f : State → State) : Outcome :=
  match o with
  | .next t => .next (f t)
  | .fault r => .fault r
  | .refused r => .refused r

/-- The micro-operation of the coming edge, if `rst = 0` there: what `{start, op, OPR, PH}` decodes to (R51, R127).  Nothing
is fetched from a memory (R43): the code is in two registers and on two ports. -/
def fetch (s : State) : Except DecodeError Instr := decodeEdge s.code

/-- The ports carry these samples, from the coming edge on. -/
def State.drive (s : State) (samples : List Pins) : State :=
  match samples with
  | [] => s
  | p :: rest => (s.setPins p).setScript rest

end Sys2Proof.Machine
end

