-- ==== Sys2Proof/Machine/Control.lean ====
section
/-! DEFINITION. The micro-operations that take a command, make the key schedule and end the command
(45_round_controller_core.md R113, R115 to R117, R126). -/

namespace Sys2Proof.Machine

/-- IDLE (R115): `PH = IDLE`, `start = 0`.  No register changes. -/
def execIdle (opr : Bool) (s : State) : Outcome :=
  if s.pins.start = false then whenInForce s opr .idle s else .refused .notInForce

/-- LOAD (R113): `PH = IDLE`, `start = 1`.  `op` is in the code; the key and the block are read from the ports. -/
def execLoad (op opr : Bool) (s : State) : Outcome :=
  if s.pins.start = true ∧ s.pins.op = op then
    whenInForce s opr .idle (acceptCommand op s.pins.key s.pins.blockIn s)
  else .refused .notInForce

/-- EXPAND (R116): `KS[4..43]` from `KS[0..3]`; then ARK with `RND = 0` in ENC, INVERT in DEC. -/
def execExpand (opr : Bool) (s : State) : Outcome :=
  let t := s.setKS (expandWords s.KS)
  whenInForce s opr .expand (if s.OPR then t.setPH .invert else (t.setPH .ark).setRND 0#4)

/-- INVERT (R117): `KS[4..39]` through `InvMixWord`, in place; then ARK with `RND = 10`. -/
def execInvert (s : State) : Outcome :=
  whenInForce s true .invert (((s.setKS (invertForDecryption s.KS)).setPH .ark).setRND 10#4)

/-- STORE (R126): `OUT <- from_state(S)`, `DONE <- 1`, `PH <- IDLE`. -/
def execStore (opr : Bool) (s : State) : Outcome :=
  whenInForce s opr .store (((s.setOUT (fromState s.S)).setDONE true).setPH .idle)

end Sys2Proof.Machine
end

