-- ==== Sys2Proof/Machine/Rounds.lean ====
section
/-! DEFINITION. The round micro-operations (45_round_controller_core.md R118 to R125). -/

namespace Sys2Proof.Machine

/-- ARK's writes with round key `rk` (R118): after the last round STORE, and `RND` stays; else SUB of the next round. -/
def arkEdge (rk : Block) (s : State) : State :=
  let t := s.setS (addroundkey s.S rk)
  if lastRound s.OPR s.RND then t.setPH .store else (t.setPH .sub).setRND (nextRound s.OPR s.RND)

/-- ARK (R118): the round key is the one that `RND` selects before the edge. -/
def execArk (opr : Bool) (s : State) : Outcome :=
  match s.currentRoundKey with
  | some rk => whenInForce s opr .ark (arkEdge rk s)
  | none => .refused .unreachableController

/-- The phase after SHIFT or ISHIFT: the last round has no MixColumns (R121, R122). -/
def afterShift (s : State) : Phase := if lastRound s.OPR s.RND then .ark else .mix

/-- SUB (R119). -/
def execSub (s : State) : Outcome := whenInForce s false .sub ((s.setS (subbytesForward s.S)).setPH .shift)

/-- ISUB (R120). -/
def execIsub (s : State) : Outcome := whenInForce s true .sub ((s.setS (subbytesInverse s.S)).setPH .shift)

/-- SHIFT (R121). -/
def execShift (s : State) : Outcome :=
  whenInForce s false .shift ((s.setS (shiftrowsForward s.S)).setPH (afterShift s))

/-- ISHIFT (R122). -/
def execIshift (s : State) : Outcome :=
  whenInForce s true .shift ((s.setS (shiftrowsInverse s.S)).setPH (afterShift s))

/-- MIX (R123). -/
def execMix (s : State) : Outcome := whenInForce s false .mix ((s.setS (mixcolumnsForward s.S)).setPH .ark)

/-- IMIX (R124): it comes before the ARK of its round (conflict C2). -/
def execImix (s : State) : Outcome := whenInForce s true .mix ((s.setS (mixcolumnsInverse s.S)).setPH .ark)

end Sys2Proof.Machine
end

