-- ==== Sys2Proof/Machine/Commands.lean ====
section
/-! DEFINITION. The commands (30_encoding.md R47; 45_round_controller_core.md R113 to R115, R129, R134): what an edge with
`rst = 0` does at which the ports carry the command's word.  In IDLE a command is taken, and the edges after it do the rest
of it (R130, R135); in every other phase the word is ignored whole and the micro-operation in force is done (R114). -/

namespace Sys2Proof.Machine

/-- The micro-operation that `PH` and `OPR` name, in a phase other than IDLE (R127, R125). -/
def busyEdge (s : State) : Outcome :=
  match s.PH, s.OPR with
  | .idle, _ => .refused .notInForce
  | .expand, d => execExpand d s
  | .invert, true => execInvert s
  | .invert, false => .refused .unreachableController
  | .ark, d => execArk d s
  | .sub, false => execSub s
  | .sub, true => execIsub s
  | .shift, false => execShift s
  | .shift, true => execIshift s
  | .mix, false => execMix s
  | .mix, true => execImix s
  | .store, d => execStore d s

/-- NOP: no command.  In IDLE the idle step (R115). -/
def execNop (_op : Bool) (_key _block : Block) (s : State) : Outcome :=
  if s.PH = .idle then fromReachable s s else busyEdge s

/-- ENC: taken in IDLE with `op = 0` (R113, R129). -/
def execEnc (key block : Block) (s : State) : Outcome :=
  if s.PH = .idle then fromReachable s (acceptCommand false key block s) else busyEdge s

/-- DEC: taken in IDLE with `op = 1` (R113, R134). -/
def execDec (key block : Block) (s : State) : Outcome :=
  if s.PH = .idle then fromReachable s (acceptCommand true key block s) else busyEdge s

end Sys2Proof.Machine
end

