-- ==== Sys2Proof/Machine/Dispatch.lean ====
section
/-! DEFINITION. One arm for each constructor of Instr. -/

namespace Sys2Proof.Machine

def exec (i : Instr) (s : State) : Host.Outcome State Fault Refusal :=
  match i with
  | .nop op key block => Sys2Proof.Machine.execNop op key block s
  | .enc key block => Sys2Proof.Machine.execEnc key block s
  | .dec key block => Sys2Proof.Machine.execDec key block s
  | .idle opr => Sys2Proof.Machine.execIdle opr s
  | .load op opr => Sys2Proof.Machine.execLoad op opr s
  | .expand opr => Sys2Proof.Machine.execExpand opr s
  | .invert => Sys2Proof.Machine.execInvert s
  | .ark opr => Sys2Proof.Machine.execArk opr s
  | .sub => Sys2Proof.Machine.execSub s
  | .isub => Sys2Proof.Machine.execIsub s
  | .shift => Sys2Proof.Machine.execShift s
  | .ishift => Sys2Proof.Machine.execIshift s
  | .mix => Sys2Proof.Machine.execMix s
  | .imix => Sys2Proof.Machine.execImix s
  | .store opr => Sys2Proof.Machine.execStore opr s

end Sys2Proof.Machine
end

