-- ==== Sys2Proof/Machine/Placing.lean ====
section
/-! DEFINITION. Putting one instruction where the next edge meets it (log 7): on the ports and in the controller. -/

namespace Sys2Proof.Machine

/-- `RND` for an edge that does the code `{opr, ph}`: kept where that is a controller state that runs reach (R55), else the
round nearest to the start of the traces R130 and R135 that is. -/
def roundFor (opr : Bool) (ph : Phase) (rnd : BitVec 4) : BitVec 4 :=
  if reachable opr ph rnd then rnd
  else
    match ph, opr with
    | .sub, false => 1#4
    | .sub, true => 9#4
    | .shift, false => 1#4
    | .shift, true => 9#4
    | .mix, false => 1#4
    | .mix, true => 9#4
    | .store, false => 10#4
    | _, _ => 0#4

/-- The controller about to do the code `{opr, ph}`. -/
def State.inPhase (s : State) (opr : Bool) (ph : Phase) : State :=
  ((s.setOPR opr).setPH ph).setRND (roundFor opr ph s.RND)

/-- No reset, and `start` and `op` as given, at the coming edge; the other ports as they are. -/
def State.strobe (s : State) (start op : Bool) : State :=
  s.setPins { s.pins with rst := false, start := start, op := op }

/-- `s` about to meet the code `c`: a command word on the ports, with the core resting; an ACCEPT value on the ports and in
the controller; a UOP code in the controller, with no command presented. -/
def State.place (s : State) (c : Code) : State :=
  match c with
  | .cmd w => (s.setPins (.ofWord w)).inPhase s.OPR .idle
  | .accept c => (s.strobe (c.getLsbD 5) (c.getLsbD 4)).inPhase (c.getLsbD 3) (.ofBits (c.extractLsb' 0 3))
  | .uop c => (s.strobe false s.pins.op).inPhase (c.getLsbD 3) (.ofBits (c.extractLsb' 0 3))

/-- `s` about to meet the code of a table row's bits; a number that is no code places nothing. -/
def State.placeWord (s : State) (nbits w : Nat) : State :=
  match codeOfTable nbits w with
  | .ok c => s.place c
  | .error _ => s

end Sys2Proof.Machine
end

