-- ==== Sys2Proof/Machine/Step.lean ====
section
/-! DEFINITION. One step: one rising edge of `clk` (00_scope.md R7; 45_round_controller_core.md R127). -/

namespace Sys2Proof.Machine

/-- One edge.  `rst = 1` wins over everything (R150, R161); else the micro-operation in force is done.  After either, the
environment drives its next sample (log 1). -/
def step (s : State) : Host.Outcome State Fault Refusal :=
  if s.pins.rst then .next (advance (resetEdge s))
  else
    match fetch s with
    | .ok i => onNext (exec i s) advance
    | .error _ => .refused .unreachableController

/-- `s` with a table row's instruction where `step` meets it (log 7). -/
def State.withFetchWord (s : State) (nbits w : Nat) : State := s.placeWord nbits w

end Sys2Proof.Machine
end

