-- ==== Sys2Proof/Machine/Cipher.lean ====
section
/-! DEFINITION. The two pure functions that the commands compute (45_round_controller_core.md R128, R133). -/

namespace Sys2Proof.Machine

/-- Round `r` of encryption (R128 step 3): MixColumns is skipped only when `r = 10`. -/
def encryptRound (w : KeySchedule) (s : Block) (r : Fin 11) : Block :=
  let t := shiftrowsForward (subbytesForward s)
  addroundkey (if r = 10 then t else mixcolumnsForward t) (roundKey w r)

/-- `encrypt(block, key)` (R128). -/
def encrypt (block key : Block) : Block :=
  let w := expandKey key
  fromState ([1, 2, 3, 4, 5, 6, 7, 8, 9, 10].foldl (encryptRound w) (addroundkey (toState block) (roundKey w 0)))

/-- Round `r` of decryption (R133 steps 3 and 4): InvMixColumns before AddRoundKey (conflict C2), skipped when `r = 0`. -/
def decryptRound (dw : KeySchedule) (s : Block) (r : Fin 11) : Block :=
  let t := shiftrowsInverse (subbytesInverse s)
  addroundkey (if r = 0 then t else mixcolumnsInverse t) (roundKey dw r)

/-- `decrypt(block, key)` (R133), the equivalent inverse cipher. -/
def decrypt (block key : Block) : Block :=
  let dw := invertForDecryption (expandKey key)
  fromState ([9, 8, 7, 6, 5, 4, 3, 2, 1, 0].foldl (decryptRound dw) (addroundkey (toState block) (roundKey dw 10)))

end Sys2Proof.Machine
end

