-- ==== Sys2Proof/Machine/Ports.lean ====
section
/-! DEFINITION. The output ports, the optional trace port, and the sub-modules that hold registers, each described by its
own ports (10_state.md R22 to R24; 44_key_schedule.md R107; 45_round_controller_core.md R140; 60_exceptions.md R155).
Nothing in this file is read by `step`: it is the second description that the spec gives of the same edge. -/

namespace Sys2Proof.Machine

/-- The four trace outputs (R155). -/
structure Trace where
  valid : Bool
  round : BitVec 4
  key   : Block
  state : Block
deriving DecidableEq, Repr

/-- The trace outputs before an edge: while `PH = ARK` the round, its round key, and the state that the ARK writes; at any
other time the three values are unspecified (R155, U4). -/
def State.trace (s : State) : Trace :=
  match s.PH, s.currentRoundKey with
  | .ark, some rk => { valid := true, round := s.RND, key := rk, state := addroundkey s.S rk }
  | _, _ =>
    { valid := s.PH == .ark, round := Config.freeTraceRound s.tick, key := Config.freeTraceKey s.tick,
      state := Config.freeTraceState s.tick }

/-- The output ports of `aes128_core` (R22); the trace port is there only if `HAS_TRACE`. -/
structure Outputs where
  busy     : Bool
  done     : Bool
  blockOut : Block
  trace    : Option Trace
deriving DecidableEq, Repr

/-- The outputs, for an implementation with configuration `c` (R12, R16, R17, R155). -/
def State.outputs (c : Config) (s : State) : Outputs where
  busy := s.busy
  done := s.done
  blockOut := s.OUT
  trace := if c.hasTrace then some s.trace else none

/-- The registers of `round_controller` (R23). -/
structure Controller where
  OPR  : Bool
  PH   : Phase
  RND  : BitVec 4
  DONE : Bool
deriving DecidableEq, Repr

/-- What `round_controller` holds of the state (R23). -/
def State.controller (s : State) : Controller := { OPR := s.OPR, PH := s.PH, RND := s.RND, DONE := s.DONE }

/-- `round_controller` at an edge with `rst = 0`: the table of R127 row by row.  The code `0010` has no row. -/
def Controller.next (c : Controller) (start op : Bool) : Option Controller :=
  match c.PH, c.OPR with
  | .idle, _ => some (if start then { c with PH := .expand, OPR := op, DONE := false } else c)
  | .expand, false => some { c with PH := .ark, RND := 0#4 }
  | .expand, true => some { c with PH := .invert }
  | .invert, false => none
  | .invert, true => some { c with PH := .ark, RND := 10#4 }
  | .ark, false => some (if c.RND ≠ 10#4 then { c with PH := .sub, RND := c.RND + 1#4 } else { c with PH := .store })
  | .ark, true => some (if c.RND ≠ 0#4 then { c with PH := .sub, RND := c.RND - 1#4 } else { c with PH := .store })
  | .sub, _ => some { c with PH := .shift }
  | .shift, false => some (if c.RND ≠ 10#4 then { c with PH := .mix } else { c with PH := .ark })
  | .shift, true => some (if c.RND ≠ 0#4 then { c with PH := .mix } else { c with PH := .ark })
  | .mix, _ => some { c with PH := .ark }
  | .store, _ => some { c with PH := .idle, DONE := true }

/-- The inputs of `aes_key_schedule` that change `KS` (R24, D23). -/
structure ScheduleIn where
  load   : Bool
  expand : Bool
  invert : Bool
  key    : Block
deriving DecidableEq, Repr

/-- `aes_key_schedule` at an edge (R107). -/
def scheduleEdge (i : ScheduleIn) (ks : KeySchedule) : KeySchedule :=
  if i.load then seedWords i.key ks
  else if i.expand then expandWords ks
  else if i.invert then invertForDecryption ks
  else ks

/-- How `aes128_core` drives `aes_key_schedule` (R140): each enable gated by `rst = 0`. -/
def State.scheduleIn (s : State) : ScheduleIn where
  load := s.accept
  expand := s.PH == .expand && !s.pins.rst
  invert := s.PH == .invert && !s.pins.rst
  key := s.pins.key

/-- The next value of `S` at an edge with `rst = 0` (R140), where `rk` is what `aes_key_schedule` drives. -/
def State.nextS (s : State) (rk : Block) : Block :=
  match s.PH with
  | .idle => if s.accept then toState s.pins.blockIn else s.S
  | .ark => addroundkey s.S rk
  | .sub => if s.OPR then subbytesInverse s.S else subbytesForward s.S
  | .shift => if s.OPR then shiftrowsInverse s.S else shiftrowsForward s.S
  | .mix => if s.OPR then mixcolumnsInverse s.S else mixcolumnsForward s.S
  | .expand | .invert | .store => s.S

/-- The next value of `OUT` at an edge with `rst = 0` (R140). -/
def State.nextOUT (s : State) : Block := if s.PH = .store then fromState s.S else s.OUT

end Sys2Proof.Machine
end

