-- ==== Sys2Proof/Machine/Script.lean ====
section
/-! DEFINITION. Runs: edges, command scripts (30_encoding.md R58;
70_reset_and_hazards.md R172), micro-operation listings (R59) and the two listings of a
whole command (R130, R135). -/

namespace Sys2Proof.Machine

/-- `n` edges. -/
def edges (n : Nat) (s : State) : Outcome := Host.Core.run Sys2Proof.core n s

/-- The samples of the ports that a line of a script describes, from state `s` (R58).  Fields that are "don't care" are 0
(log 14).  `WAIT` is as many quiet edges as the command in progress still takes. -/
def samples (l : ScriptLine) (s : State) : List Pins :=
  match l with
  | .reset => [{ Pins.quiet with rst := true }]
  | .enc key block => [{ rst := false, start := true, op := false, key := key, blockIn := block }]
  | .dec key block => [{ rst := false, start := true, op := true, key := key, blockIn := block }]
  | .nop n => List.replicate n .quiet
  | .wait => List.replicate s.edgesLeft .quiet

/-- The edges of one line. -/
def runLine (l : ScriptLine) (s : State) : Outcome :=
  edges (samples l s).length (s.drive (samples l s))

/-- The edges of a script, stopping at a refusal. -/
def runScript (ls : List ScriptLine) (s : State) : Outcome :=
  match ls with
  | [] => .next s
  | l :: rest =>
    match runLine l s with
    | .next t => runScript rest t
    | .fault r => .fault r
    | .refused r => .refused r

/-- A whole run of a script, to where R172 says that it is over: the edges of its lines and then, if a command is in
progress, the edges without reset and without a command until that command is over (log 14).  Those are what a last line
`WAIT` describes. -/
def runToEnd (ls : List ScriptLine) (s : State) : Outcome := runScript (ls ++ [.wait]) s

/-- `ROUND r` of R59. -/
def roundListing (r : Nat) : List Listed :=
  if r = 10 then [⟨.sub, 10⟩, ⟨.shift, 10⟩, ⟨.ark false, 10⟩]
  else [⟨.sub, r⟩, ⟨.shift, r⟩, ⟨.mix, r⟩, ⟨.ark false, r⟩]

/-- `IROUND r` of R59. -/
def iroundListing (r : Nat) : List Listed :=
  if r = 0 then [⟨.isub, 0⟩, ⟨.ishift, 0⟩, ⟨.ark true, 0⟩]
  else [⟨.isub, r⟩, ⟨.ishift, r⟩, ⟨.imix, r⟩, ⟨.ark true, r⟩]

/-- The micro-operations of an ENC after its accept edge: edges 1 to 42 (R130).  `left` is the left-over value of `RND`. -/
def encListing (left : Nat) : List Listed :=
  [⟨.expand false, left⟩, ⟨.ark false, 0⟩] ++ [1, 2, 3, 4, 5, 6, 7, 8, 9, 10].flatMap roundListing ++
    [⟨.store false, 10⟩]

/-- The micro-operations of a DEC after its accept edge: edges 1 to 43 (R135). -/
def decListing (left : Nat) : List Listed :=
  [⟨.expand true, left⟩, ⟨.invert, left⟩, ⟨.ark true, 10⟩] ++
    [9, 8, 7, 6, 5, 4, 3, 2, 1, 0].flatMap iroundListing ++ [⟨.store true, 0⟩]

/-- The trace events of `n` edges from `s`, in order: one for each edge before which `trace_valid = 1` (R155).  An edge with
`PH = ARK` and `rst = 1` is counted too, although it executes no ARK.  DESIGN CHOICE (log 15). -/
def traceEvents (n : Nat) (s : State) : List Trace :=
  match n with
  | 0 => []
  | n + 1 =>
    let here := if s.trace.valid then [s.trace] else []
    match step s with
    | .next t => here ++ traceEvents n t
    | _ => here

end Sys2Proof.Machine
end

