-- ==== Sys2Proof/Machine/Wrapper.lean ====
section
/-! DEFINITION. A byte-sequence wrapper around the core (60_exceptions.md R147, U10; log 10).  The length check stands here,
before LOAD; inside the core there is nothing to check. -/

namespace Sys2Proof.Machine

/-- The 128-bit vector of sixteen bytes, byte 0 first (R4); none for another length. -/
def blockOfBytes (bs : List Byte) : Option Block :=
  if h : bs.length = 16 then some (ofBytes fun i => bs[i]) else none

/-- Presenting `encrypt(block, key)` (`op` false) or `decrypt(block, key)` (`op` true) at the coming edge.  A block or key
that is not 16 bytes long fails with `InvalidLength` before anything changes (R147). -/
def present (op : Bool) (block key : List Byte) (s : State) : Outcome :=
  match blockOfBytes block, blockOfBytes key with
  | some b, some k => .next (s.setPins { rst := false, start := true, op := op, key := k, blockIn := b })
  | _, _ => .fault .invalidLength

end Sys2Proof.Machine
end

