-- ==== Sys2Proof/Safety.lean ====
section
/-! DEFINITION. What a good state is, in the terms the statements use. -/

namespace Sys2Proof.Machine

/-- What `KS` holds (R11): after EXPAND, and in an ENC to its end, the schedule of the key in its words 0..3; after INVERT,
in a DEC to its end, the inverse of that schedule. -/
def State.holdsSchedule (s : State) : Prop :=
  match s.PH, s.OPR with
  | .expand, _ => True
  | .invert, _ => s.KS = expandWords s.KS
  | .idle, false => s.DONE = true → s.KS = expandWords s.KS
  | .idle, true => s.DONE = true → s.KS = invertForDecryption (expandWords s.KS)
  | _, false => s.KS = expandWords s.KS
  | _, true => s.KS = invertForDecryption (expandWords s.KS)

/-- The invariant of the core: the controller is in a state of the traces (R55); a finished command means a resting core
whose output is the state it left (R16, R17, R171); and the key schedule is what R11 says. -/
structure State.Inv (s : State) : Prop where
  controller : s.reachable = true
  finished   : s.DONE = true → s.PH = .idle ∧ s.OUT = fromState s.S
  schedule   : s.holdsSchedule

/-- The core rests: it is in IDLE, in a controller state that runs reach. -/
def State.Resting (s : State) : Prop := s.PH = .idle ∧ s.reachable = true

/-- The next `n` samples of the ports, from the coming edge on, have `rst = 0` (past its end the script is quiet). -/
def State.noReset (s : State) (n : Nat) : Prop := ∀ p ∈ (s.pins :: s.script).take n, p.rst = false

/-- The ports present a command at the coming edge, without reset (R46, R113). -/
def State.presents (s : State) (op : Bool) (key block : Block) : Prop :=
  s.pins = { rst := false, start := true, op := op, key := key, blockIn := block }

/-- The registers `S`, `KS`, `OUT`, `OPR`, `PH`, `RND`, `DONE` of two states are the same (R10 to R16). -/
def State.sameRegisters (s t : State) : Prop :=
  s.S = t.S ∧ s.KS = t.KS ∧ s.OUT = t.OUT ∧ s.OPR = t.OPR ∧ s.PH = t.PH ∧ s.RND = t.RND ∧ s.DONE = t.DONE

/-- A run is safe if every state of it keeps the invariant and no edge of it stops. -/
def safeRun (n : Nat) (s : State) : Prop := ∀ k ≤ n, ∃ t, edges k s = .next t ∧ t.Inv

/-! ## Reference forms: the spec's second way of saying what a function computes -/

/-- The product of two polynomials over GF(2), not reduced: the XOR of `a * x^k` over the set bits `k` of `b` (R62, R64). -/
def polyProduct (a b : Byte) : BitVec 15 :=
  (List.range 8).foldl (fun p k => if b.getLsbD k then p ^^^ (a.zeroExtend 15 <<< k) else p) 0#15

/-- The remainder modulo `x^8 + x^4 + x^3 + x + 1`: the terms `x^14` down to `x^8` are cancelled with multiples of `0x11B`
(R62, R64). -/
def polyReduce (p : BitVec 15) : Byte :=
  ([6, 5, 4, 3, 2, 1, 0].foldl (fun q k => if q.getLsbD (8 + k) then q ^^^ (0x11B#15 <<< k) else q) p).truncate 8

/-- `XOR over k in 0..3 of m(C[(k - r) mod 4], a[k])`, the closed form of R90 and R91; the subtraction of `Fin 4` is modulo
4. -/
def circulant (coefficients : Vector Byte 4) (a : Fin 4 → Byte) (r : Fin 4) : Byte :=
  let term := fun k : Fin 4 => gf28Multiply coefficients[k - r] (a k)
  term 0 ^^^ term 1 ^^^ term 2 ^^^ term 3

/-- `CF` of R90. -/
def mixForward : Vector Byte 4 := #v[0x02, 0x03, 0x01, 0x01]

/-- `CI` of R91. -/
def mixInverse : Vector Byte 4 := #v[0x0E, 0x0B, 0x0D, 0x09]

/-- The affine step of R74: `b XOR rotl8(b, 1) XOR rotl8(b, 2) XOR rotl8(b, 3) XOR rotl8(b, 4) XOR 0x63`. -/
def affine (b : Byte) : Byte :=
  b ^^^ b.rotateLeft 1 ^^^ b.rotateLeft 2 ^^^ b.rotateLeft 3 ^^^ b.rotateLeft 4 ^^^ 0x63#8

end Sys2Proof.Machine
end

