-- ==== Sys2Proof/Certificates/Slice0/Obligations.lean ====
section
/-! DEFINITION. The statements, each from numbered rules of spec/.  A statement about a free value holds for every value of
it: none rests on what `Config` leaves open. -/

section

open Sys2Proof Sys2Proof.Machine

/-! ## Reset -/

/-- R25: the reset state holds the values that the spec gives for `PH`, `RND`, `OPR`, `DONE` and `OUT`, and so `busy` and
`done` are 0. Of `S` and `KS`, to which the spec gives none, it says nothing (log 2). -/
def Obligations.ResetStateHoldsTheSpecsValues : Prop :=
  State.reset.PH = .idle ∧ State.reset.RND = 0#4 ∧ State.reset.OPR = false ∧ State.reset.DONE = false ∧
  State.reset.OUT = 0#128 ∧ State.reset.busy = false ∧ State.reset.done = false

/-- R161: an edge with `rst = 1` resets from every state whatever, commands in progress among them, and takes no command,
whatever the other inputs; `S` and `KS` are left open. -/
def Obligations.ResetEdgeResetsFromEveryState : Prop :=
  ∀ s : State, s.pins.rst = true →
    ∃ t, step s = .next t ∧ t.PH = .idle ∧ t.RND = 0#4 ∧ t.OPR = false ∧ t.DONE = false ∧ t.OUT = 0#128 ∧
      ∀ c : Config, (t.outputs c).busy = false ∧ (t.outputs c).done = false ∧ (t.outputs c).blockOut = 0#128

/-! ## Encodings and the step -/

/-- R47, R51: words written out from the tables decode to their instructions; the command words are those of programs P1
and P2 of 95_test_vectors.md.  Reading them as numbers of 264 and 8 bits is the model's numbering of the opcode table
(log 6).  R54: of the sixteen micro-operation codes exactly `0010` is rejected. -/
def Obligations.WrittenWordsDecode : Prop :=
  decodeTableWord 264 0x22b7e151628aed2a6abf7158809cf4f3c3243f6a8885a308d313198a2e0370734 =
    some (.enc 0x2b7e151628aed2a6abf7158809cf4f3c 0x3243f6a8885a308d313198a2e0370734) ∧
  decodeTableWord 264 0x34d617468656d61746963733132333435b2389918ad617e029e7755713f265a57 =
    some (.dec 0x4d617468656d61746963733132333435 0xb2389918ad617e029e7755713f265a57) ∧
  decodeTableWord 264 0 = some (.nop false 0 0) ∧
  decodeTableWord 8 0b0000 = some (.idle false) ∧ decodeTableWord 8 0b1001 = some (.expand true) ∧
  decodeTableWord 8 0b1010 = some .invert ∧ decodeTableWord 8 0b0011 = some (.ark false) ∧
  decodeTableWord 8 0b0100 = some .sub ∧ decodeTableWord 8 0b1100 = some .isub ∧
  decodeTableWord 8 0b0101 = some .shift ∧ decodeTableWord 8 0b1101 = some .ishift ∧
  decodeTableWord 8 0b0110 = some .mix ∧ decodeTableWord 8 0b1110 = some .imix ∧
  decodeTableWord 8 0b1111 = some (.store true) ∧ decodeTableWord 8 0b110000 = some (.load true false) ∧
  decodeTableWord 8 0b0010 = none ∧ (∀ c : BitVec 4, (∃ i, decodeUop c = .ok i) ↔ c ≠ 0b0010#4)

/-- R46, R49, R51: for every instruction and every value of its operands, decoding what it encodes to gives it back, as a
code and as a number of the opcode table (the numbering is the model's choice, log 6). -/
def Obligations.DecodeOfEncode : Prop :=
  ∀ i : Instr, decodeCode (encode i) = .ok i ∧ decodeTableWord (encode i).width (encode i).value = some i

/-- R46, R49, and R56, which the spec marks as derived: every bit of a command word and of a code is accounted for: what
decodes encodes back to the same bits. -/
def Obligations.EncodeOfDecode : Prop :=
  ∀ (c : Code) (i : Instr), decodeCode c = .ok i → encode i = c

/-- R127, R49, R51: at an edge with `rst = 0`, a step is the micro-operation whose code is in force, after which the
environment's next sample comes to the ports (the samples are the model's arrangement, log 1). -/
def Obligations.StepRunsTheCodeInForce : Prop :=
  ∀ (s : State) (i : Instr), s.pins.rst = false →
    decodeEdge (edgeCode s.pins.start s.pins.op s.OPR s.PH) = .ok i → step s = onNext (exec i s) advance

/-- R46, R47, R113 to R115: at an edge with `rst = 0`, in every phase, a step is also the command that the ports carry:
the two levels of instruction are two names of one edge (deduced, log 8). -/
def Obligations.StepRunsTheCommandOnThePorts : Prop :=
  ∀ s : State, s.pins.rst = false → step s = onNext (exec (decodeCommand s.pins.word) s) advance

/-- Any table word that decodes can be placed, on any state, so that the next step runs its instruction to a next state.
The placing is the model's own arrangement (log 7). -/
def Obligations.StepRunsAPlacedWord : Prop :=
  ∀ (s : State) (nbits w : Nat) (i : Instr), decodeTableWord nbits w = some i →
    ∃ t, exec i (s.withFetchWord nbits w) = .next t ∧ step (s.withFetchWord nbits w) = .next (advance t)

/-! ## Commands -/

/-- R115: in a resting core NOP, whatever its other bits, and, with `start = 0`, IDLE complete and change no register. -/
def Obligations.NopAndIdleChangeNothing : Prop :=
  (∀ (s : State) (op : Bool) (key block : Block), s.Resting → exec (.nop op key block) s = .next s) ∧
  (∀ s : State, s.Resting → s.pins.start = false → exec (.idle s.OPR) s = .next s)

/-- R113, R47: in a resting core ENC and DEC are taken: the block fills `S` column by column, the key fills `KS[0..3]`
big-endian, `OPR` takes the direction, `DONE` is cleared, EXPAND comes next, and nothing else changes. -/
def Obligations.CommandsAreTakenWhenResting : Prop :=
  ∀ (s : State) (key block : Block), s.Resting →
    ∃ (v : Block) (ks : KeySchedule),
      exec (.enc key block) s = .next { s with S := v, KS := ks, OPR := false, DONE := false, PH := .expand } ∧
      exec (.dec key block) s = .next { s with S := v, KS := ks, OPR := true, DONE := false, PH := .expand } ∧
      (∀ i : Fin 16, cell v (rowOf i) (colOf i) = byte block i) ∧
      (∀ j k : Fin 4, wordByte ks[j] k = byte key ⟨4 * j.val + k.val, by omega⟩) ∧
      (∀ i : Fin 44, 4 ≤ i.val → ks[i] = s.KS[i])

/-- R113: LOAD does this with the operands and the direction that the ports carry: the block fills `S` column by column,
the key fills `KS[0..3]` big-endian, `OPR` takes `op`, `DONE` is cleared, EXPAND comes next, and nothing else changes. -/
def Obligations.LoadTakesTheCommandOnThePorts : Prop :=
  ∀ s : State, s.Resting → s.pins.start = true →
    ∃ (v : Block) (ks : KeySchedule),
      exec (.load s.pins.op s.OPR) s =
        .next { s with S := v, KS := ks, OPR := s.pins.op, DONE := false, PH := .expand } ∧
      (∀ i : Fin 16, cell v (rowOf i) (colOf i) = byte s.pins.blockIn i) ∧
      (∀ j k : Fin 4, wordByte ks[j] k = byte s.pins.key ⟨4 * j.val + k.val, by omega⟩) ∧
      (∀ i : Fin 44, 4 ≤ i.val → ks[i] = s.KS[i])

/-- R114, R53: while busy, a command on the ports is ignored whole: whatever command it is, the edge does the
micro-operation in force. -/
def Obligations.BusyCoreIgnoresCommands : Prop :=
  ∀ (s : State) (i : Instr) (op : Bool) (key block : Block), s.busy = true → decodeUop s.uop = .ok i →
    exec (.nop op key block) s = exec i s ∧ exec (.enc key block) s = exec i s ∧ exec (.dec key block) s = exec i s

/-- R114: a step while busy does not read `start`, `op`, `key` or `block_in`: two states that differ only there have the
same step, next state included, so that nothing is remembered of what was presented. -/
def Obligations.BusyStepReadsNoOperands : Prop :=
  ∀ (s : State) (p q : Pins), s.busy = true → p.rst = q.rst →
    step { s with pins := p } = step { s with pins := q }

/-! ## Micro-operations -/

/-- R116, R104: EXPAND keeps the key's words and computes words 4..43 by the recurrence; then ARK at round 0 in ENC and
INVERT in DEC; nothing else changes. -/
def Obligations.ExpandComputesTheSchedule : Prop :=
  ∀ s : State, s.PH = .expand → s.reachable = true →
    ∃ ks : KeySchedule,
      exec (.expand s.OPR) s =
        .next (if s.OPR then { s with KS := ks, PH := .invert } else { s with KS := ks, PH := .ark, RND := 0#4 }) ∧
      (∀ i : Fin 4, ks[i.val] = s.KS[i.val]) ∧
      (∀ n : Fin 40, ks[n.val + 4] = ks[n.val] ^^^
        (if (n.val + 4) % 4 = 0 then
          subWord (rotWord ks[n.val + 3]) ^^^ rconWord ⟨(n.val + 4) / 4 - 1, by omega⟩
        else ks[n.val + 3]))

/-- R117, R106: INVERT replaces words 4..39 by `InvMixWord` of themselves and keeps the rest, so that the schedule of a key
becomes the inverse schedule of it; then ARK at round 10; nothing else changes. -/
def Obligations.InvertTransformsTheMiddleWords : Prop :=
  ∀ s : State, s.OPR = true → s.PH = .invert → s.reachable = true →
    ∃ ks : KeySchedule,
      exec .invert s = .next { s with KS := ks, PH := .ark, RND := 10#4 } ∧
      (∀ i : Fin 44, ks[i] = if 4 ≤ i.val ∧ i.val ≤ 39 then invMixWord s.KS[i] else s.KS[i]) ∧
      (∀ key : Block, s.KS = expandKey key → ks = invertForDecryption (expandKey key))

/-- R118, R95: ARK XORs row `r` of column `c` with byte `r` of `KS[4*RND + c]`; after the last round of the direction
STORE comes next and `RND` stays, else SUB with the next `RND`; nothing else changes. -/
def Obligations.ArkAddsTheRoundKey : Prop :=
  ∀ (s : State) (h : s.RND.toNat ≤ 10), s.PH = .ark →
    ∃ v : Block,
      exec (.ark s.OPR) s = .next
        (if s.OPR = false then
          if s.RND = 10#4 then { s with S := v, PH := .store } else { s with S := v, PH := .sub, RND := s.RND + 1#4 }
        else
          if s.RND = 0#4 then { s with S := v, PH := .store } else { s with S := v, PH := .sub, RND := s.RND - 1#4 }) ∧
      (∀ r c : Fin 4, cell v r c = cell s.S r c ^^^ wordByte (s.KS[4 * s.RND.toNat + c.val]'(by omega)) r)

/-- R119, R120: SUB and ISUB replace every byte by its entry of the forward, of the inverse table; SHIFT comes next;
nothing else changes. -/
def Obligations.SubLooksUpEveryByte : Prop :=
  (∀ s : State, s.OPR = false → s.PH = .sub → s.reachable = true →
    ∃ v : Block, exec .sub s = .next { s with S := v, PH := .shift } ∧ ∀ r c, cell v r c = SBOX (cell s.S r c)) ∧
  (∀ s : State, s.OPR = true → s.PH = .sub → s.reachable = true →
    ∃ v : Block, exec .isub s = .next { s with S := v, PH := .shift } ∧ ∀ r c, cell v r c = ISBOX (cell s.S r c))

/-- R121, R122: SHIFT rotates row `r` left by `r` and ISHIFT right by `r`; MIX comes next, but ARK in the last round;
nothing else changes. -/
def Obligations.ShiftRotatesTheRows : Prop :=
  (∀ s : State, s.OPR = false → s.PH = .shift → s.reachable = true →
    ∃ v : Block, exec .shift s = .next { s with S := v, PH := if s.RND = 10#4 then .ark else .mix } ∧
      ∀ r c : Fin 4, cell v r c = cell s.S r ⟨(c.val + r.val) % 4, by omega⟩) ∧
  (∀ s : State, s.OPR = true → s.PH = .shift → s.reachable = true →
    ∃ v : Block, exec .ishift s = .next { s with S := v, PH := if s.RND = 0#4 then .ark else .mix } ∧
      ∀ r c : Fin 4, cell v r c = cell s.S r ⟨(c.val + 4 - r.val) % 4, by omega⟩)

/-- R123, R124: MIX and IMIX multiply each column by the matrix of R90, of R91; ARK comes next; nothing else changes. -/
def Obligations.MixMultipliesTheColumns : Prop :=
  (∀ s : State, s.OPR = false → s.PH = .mix → s.reachable = true →
    ∃ v : Block, exec .mix s = .next { s with S := v, PH := .ark } ∧
      ∀ r c : Fin 4, cell v r c = circulant mixForward (fun k => cell s.S k c) r) ∧
  (∀ s : State, s.OPR = true → s.PH = .mix → s.reachable = true →
    ∃ v : Block, exec .imix s = .next { s with S := v, PH := .ark } ∧
      ∀ r c : Fin 4, cell v r c = circulant mixInverse (fun k => cell s.S k c) r)

/-- R126, R81: STORE copies the state to `OUT` byte by byte, sets `DONE` and goes to IDLE; nothing else changes. -/
def Obligations.StoreDeliversTheResult : Prop :=
  ∀ s : State, s.PH = .store → s.reachable = true →
    ∃ v : Block, exec (.store s.OPR) s = .next { s with OUT := v, DONE := true, PH := .idle } ∧
      (∀ i : Fin 16, byte v i = cell s.S (rowOf i) (colOf i)) ∧ v = s.S

/-! ## Frames -/

/-- R26, a summary that the spec marks as derived: SUB, ISUB, SHIFT, ISHIFT, MIX and IMIX write `S` and `PH` and nothing
else. -/
def Obligations.RoundTransformationsFrame : Prop :=
  ∀ (i : Instr) (s t : State), i ∈ [.sub, .isub, .shift, .ishift, .mix, .imix] → exec i s = .next t →
    t.KS = s.KS ∧ t.OUT = s.OUT ∧ t.OPR = s.OPR ∧ t.RND = s.RND ∧ t.DONE = s.DONE ∧
    t.pins = s.pins ∧ t.script = s.script ∧ t.tick = s.tick

/-- R26, a summary that the spec marks as derived: ARK writes `S`, `PH` and `RND` and nothing else; EXPAND and INVERT
write `KS`, `PH` and `RND` and nothing else, never the key in words 0..3; INVERT not words 40..43, and EXPAND in DEC not
`RND`. -/
def Obligations.KeyOperationsFrame : Prop :=
  (∀ (d : Bool) (s t : State), exec (.ark d) s = .next t →
    t.KS = s.KS ∧ t.OUT = s.OUT ∧ t.OPR = s.OPR ∧ t.DONE = s.DONE ∧
    t.pins = s.pins ∧ t.script = s.script ∧ t.tick = s.tick) ∧
  (∀ (i : Instr) (s t : State), i ∈ [.expand false, .expand true, .invert] → exec i s = .next t →
    t.S = s.S ∧ t.OUT = s.OUT ∧ t.OPR = s.OPR ∧ t.DONE = s.DONE ∧ (∀ j : Fin 44, j.val < 4 → t.KS[j] = s.KS[j]) ∧
    (i = .invert → ∀ j : Fin 44, 40 ≤ j.val → t.KS[j] = s.KS[j]) ∧ (i = .expand true → t.RND = s.RND) ∧
    t.pins = s.pins ∧ t.script = s.script ∧ t.tick = s.tick)

/-- R26, a summary that the spec marks as derived: LOAD keeps `RND`, `OUT` and `KS[4..43]`; STORE keeps `S`, `KS`, `RND`
and `OPR`; IDLE keeps everything. -/
def Obligations.ControlOperationsFrame : Prop :=
  (∀ (op d : Bool) (s t : State), exec (.load op d) s = .next t →
    t.RND = s.RND ∧ t.OUT = s.OUT ∧ (∀ j : Fin 44, 4 ≤ j.val → t.KS[j] = s.KS[j]) ∧
    t.pins = s.pins ∧ t.script = s.script ∧ t.tick = s.tick) ∧
  (∀ (d : Bool) (s t : State), exec (.store d) s = .next t →
    t.S = s.S ∧ t.KS = s.KS ∧ t.RND = s.RND ∧ t.OPR = s.OPR ∧
    t.pins = s.pins ∧ t.script = s.script ∧ t.tick = s.tick) ∧
  (∀ (d : Bool) (s t : State), exec (.idle d) s = .next t → t = s)

/-- R113 to R115: the commands, taken or ignored, leave `OUT` alone unless STORE is in force, leave `KS[0..3]` alone while
busy, and taken leave `RND`, `OUT` and `KS[4..43]` alone. -/
def Obligations.CommandsFrame : Prop :=
  ∀ (s t : State) (i : Instr) (op : Bool) (key block : Block),
    i ∈ [.nop op key block, .enc key block, .dec key block] → exec i s = .next t →
    (s.PH ≠ .store → t.OUT = s.OUT) ∧ (s.PH ≠ .idle → ∀ j : Fin 44, j.val < 4 → t.KS[j] = s.KS[j]) ∧
    (s.PH = .idle → t.RND = s.RND ∧ ∀ j : Fin 44, 4 ≤ j.val → t.KS[j] = s.KS[j]) ∧
    t.pins = s.pins ∧ t.script = s.script ∧ t.tick = s.tick

/-! ## Whole-machine rules -/

/-- R12: `OUT` is written only by STORE, with `from_state(S)`, and by reset, and the port `block_out` is `OUT`. -/
def Obligations.OutIsWrittenOnlyByStoreAndReset : Prop :=
  ∀ s t : State, step s = .next t →
    (t.OUT = if s.pins.rst then 0#128 else if s.PH = .store then fromState s.S else s.OUT) ∧
    ∀ c : Config, (t.outputs c).blockOut = t.OUT

/-- R16: `DONE` is set to 1 by STORE, cleared by LOAD (the accept edge) and by reset, and otherwise holds. -/
def Obligations.DoneIsSetByStoreOnly : Prop :=
  ∀ s t : State, step s = .next t →
    t.DONE = if s.pins.rst || s.accept then false else if s.PH = .store then true else s.DONE

/-- R13: `OPR` is written only by LOAD, from the input `op`, and by reset. -/
def Obligations.DirectionIsWrittenOnlyByLoadAndReset : Prop :=
  ∀ s t : State, step s = .next t →
    t.OPR = if s.pins.rst then false else if s.accept then s.pins.op else s.OPR

/-- R127: the controller registers follow the sequencing table at every edge with `rst = 0`. -/
def Obligations.ControllerFollowsTheTable : Prop :=
  ∀ s t : State, s.pins.rst = false → step s = .next t →
    s.controller.next s.pins.start s.pins.op = some t.controller

/-- R140, which the spec marks as derived, and R107: at an edge with `rst = 0`, `KS` is what `aes_key_schedule` makes of
it under the enables that `aes128_core` derives, `S` is what the data-path selection says, and so is `OUT`. -/
def Obligations.DataPathIsTheSelectedModules : Prop :=
  ∀ s t : State, s.pins.rst = false → step s = .next t →
    t.KS = scheduleEdge s.scheduleIn s.KS ∧ (∀ rk, s.currentRoundKey = some rk → t.S = s.nextS rk) ∧ t.OUT = s.nextOUT

/-- R146: no edge raises an exception, fault or trap, whatever the state and the inputs; and no instruction does. -/
def Obligations.NothingFaults : Prop :=
  (∀ (s : State) (r : Fault), step s ≠ .fault r) ∧ (∀ (i : Instr) (s : State) (r : Fault), exec i s ≠ .fault r)

/-- At an edge with `rst = 0` a step stops in exactly the controller states that no run reaches, under that one name. R54
and R55, which the spec marks as derived, name those states and give them no meaning; refusing them is the choice that D20
and U3 offer (log 4). -/
def Obligations.OnlyUnreachableStatesAreRefused : Prop :=
  ∀ s : State, s.pins.rst = false →
    (s.reachable = true → ∃ t, step s = .next t) ∧
    (s.reachable = false → step s = .refused .unreachableController)

/-! ## Invariants -/

/-- The invariant holds right after reset (R25, R55). -/
def Obligations.ResetMeetsTheInvariant : Prop := State.reset.Inv

/-- Every step keeps the invariant: the controller stays in the states of the traces (R55, which the spec marks as
derived), a finished command means a resting core whose output is its state (R16, R129, R134), and `KS` holds the schedule
or the inverse schedule of the key in its first four words (R11). -/
def Obligations.StepKeepsTheInvariant : Prop :=
  ∀ s t : State, s.Inv → step s = .next t → t.Inv

/-- R137's "there are no error states": from every state that meets the invariant and with any inputs, any number of edges
can be taken: no run stops, and every state of it meets the invariant. -/
def Obligations.EveryRunIsSafe : Prop :=
  ∀ (s : State) (n : Nat), s.Inv → safeRun n s

/-- R17, where the spec marks it as derived: `busy = (PH != IDLE)`, `done = DONE`, and the two are never both 1, in every
state of every run from a state that meets the invariant. -/
def Obligations.BusyAndDoneExclude : Prop :=
  ∀ (s t : State) (n : Nat) (c : Config), s.Inv → edges n s = .next t →
    (t.outputs c).busy = (t.PH != .idle) ∧ (t.outputs c).done = t.DONE ∧
    ¬ ((t.outputs c).busy = true ∧ (t.outputs c).done = true)

/-! ## Commands from their accept edge to their end -/

/-- R129, its end state, which the spec marks as derived: ENC, presented to a resting core, takes 43 edges without reset,
whatever else the inputs do, and leaves `OUT = encrypt(block_in, key)`, `DONE = 1`, `PH = IDLE`, `RND = 10`, `OPR = 0`,
`KS = expand_key(key)`, `flat(S) = OUT`. -/
def Obligations.EncComputesEncrypt : Prop :=
  ∀ (s : State) (key block : Block), s.Resting → s.presents false key block → s.noReset 43 →
    ∃ t, edges 43 s = .next t ∧ t.OUT = encrypt block key ∧ t.DONE = true ∧ t.PH = .idle ∧ t.RND = 10#4 ∧
      t.OPR = false ∧ t.KS = expandKey key ∧ t.S = t.OUT

/-- R134, its end state, which the spec marks as derived: DEC, presented to a resting core, takes 44 edges without reset,
whatever else the inputs do, and leaves `OUT = decrypt(block_in, key)`, `DONE = 1`, `PH = IDLE`, `RND = 0`, `OPR = 1`, `KS
= invert_for_decryption(expand_key(key))`, `flat(S) = OUT`. -/
def Obligations.DecComputesDecrypt : Prop :=
  ∀ (s : State) (key block : Block), s.Resting → s.presents true key block → s.noReset 44 →
    ∃ t, edges 44 s = .next t ∧ t.OUT = decrypt block key ∧ t.DONE = true ∧ t.PH = .idle ∧ t.RND = 0#4 ∧
      t.OPR = true ∧ t.KS = invertForDecryption (expandKey key) ∧ t.S = t.OUT

/-- R130, a table that the spec derives from R127: edge 0 is LOAD; then the micro-operations of an ENC, edge by edge, with the
value of `RND` before each and with `done` at 0 before each; and `done` is 1 after edge 42. -/
def Obligations.EncFollowsItsTrace : Prop :=
  ∀ (s : State) (key block : Block), s.Resting → s.presents false key block → s.noReset 43 →
    fetch s = .ok (.load false s.OPR) ∧
    (∀ (n : Nat) (l : Listed), (encListing s.RND.toNat)[n]? = some l →
      ∃ t, edges (n + 1) s = .next t ∧ fetch t = .ok l.op ∧ t.RND.toNat = l.rnd ∧ t.done = false) ∧
    ∃ t, edges 43 s = .next t ∧ t.done = true

/-- R135, a table that the spec derives from R127: edge 0 is LOAD; then the micro-operations of a DEC, edge by edge, with the
value of `RND` before each and with `done` at 0 before each; and `done` is 1 after edge 43. -/
def Obligations.DecFollowsItsTrace : Prop :=
  ∀ (s : State) (key block : Block), s.Resting → s.presents true key block → s.noReset 44 →
    fetch s = .ok (.load true s.OPR) ∧
    (∀ (n : Nat) (l : Listed), (decListing s.RND.toNat)[n]? = some l →
      ∃ t, edges (n + 1) s = .next t ∧ fetch t = .ok l.op ∧ t.RND.toNat = l.rnd ∧ t.done = false) ∧
    ∃ t, edges 44 s = .next t ∧ t.done = true

/-- R137, R40: every register at the end of a command depends on nothing but `op`, `key` and `block_in` of the accept
edge: not on what the registers held before, not on the reset values of `S` and `KS`, not on the inputs during the
command. -/
def Obligations.ResultDependsOnTheAcceptEdgeOnly : Prop :=
  ∀ (s t : State) (op : Bool) (key block : Block), s.Resting → t.Resting →
    s.presents op key block → t.presents op key block →
    s.noReset (if op then 44 else 43) → t.noReset (if op then 44 else 43) →
    ∃ u v, edges (if op then 44 else 43) s = .next u ∧ edges (if op then 44 else 43) t = .next v ∧
      u.sameRegisters v

/-- R137, R176: while a command is in progress each edge without reset brings its end nearer by one; how many are left is
a function of the controller registers, not of the data. -/
def Obligations.EachEdgeBringsTheEndNearer : Prop :=
  ∀ s t : State, s.busy = true → s.pins.rst = false → step s = .next t → t.edgesLeft + 1 = s.edgesLeft

/-- R172, which the spec marks as derived: a command in progress is over after the edges it has left: `DONE = 1` and `PH =
IDLE` then, with the result in `OUT`, and not before. -/
def Obligations.ACommandInProgressEnds : Prop :=
  ∀ s : State, s.Inv → s.busy = true → s.noReset s.edgesLeft →
    (∃ t, edges s.edgesLeft s = .next t ∧ t.DONE = true ∧ t.PH = .idle ∧ t.OUT = fromState t.S) ∧
    (∀ n t, n < s.edgesLeft → edges n s = .next t → t.busy = true ∧ t.done = false)

/-- R139, which the spec marks as derived: with `start` at 1 at the first edge after a command's STORE edge, edge 43 after an
ENC and 44 after a DEC, the next command is taken there, with the operands of that edge, while `OUT` still holds the result;
`done` is 1 before that edge and 0 after it. -/
def Obligations.BackToBackCommands : Prop :=
  ∀ (s : State) (op : Bool) (key block : Block) (p : Pins), s.Resting → s.presents op key block →
    s.noReset (if op then 44 else 43) → s.script[if op then 43 else 42]? = some p → p.rst = false → p.start = true →
    ∃ u t, edges (if op then 44 else 43) s = .next u ∧ u.DONE = true ∧ step u = .next t ∧ t.DONE = false ∧
      t.PH = .expand ∧ t.OPR = p.op ∧ t.S = p.blockIn ∧ (∀ j : Fin 4, t.KS[j.val] = column p.key j) ∧
      t.OUT = if op then decrypt block key else encrypt block key

/-- R58, R164, R165: from any state at all, powered up or mid-command, the script RESET, ENC, WAIT ends with the encryption
on the output and `DONE = 1`, and RESET, DEC, WAIT with the decryption; and so do they without WAIT, when the run is taken to
its end.  R172, which the spec marks as derived: from every controller state that runs reach, the run of any script comes to
an end, with the core in IDLE: at once if no command is in progress after its last line, else with that command over and its
result in `OUT`.  What WAIT and the don't-care fields stand for, and that the ports are quiet after the last line, is the
model's reading (log 14). -/
def Obligations.ScriptsComputeFromAnyState : Prop :=
  (∀ (s : State) (key block : Block),
    (∃ t, runScript [.reset, .enc key block, .wait] s = .next t ∧ t.OUT = encrypt block key ∧ t.DONE = true) ∧
    (∃ t, runScript [.reset, .dec key block, .wait] s = .next t ∧ t.OUT = decrypt block key ∧ t.DONE = true) ∧
    (∃ t, runToEnd [.reset, .enc key block] s = .next t ∧ t.OUT = encrypt block key ∧ t.commandOver = true) ∧
    (∃ t, runToEnd [.reset, .dec key block] s = .next t ∧ t.OUT = decrypt block key ∧ t.commandOver = true)) ∧
  (∀ (s : State) (ls : List ScriptLine), s.reachable = true →
    ∃ u t, runScript ls s = .next u ∧ runToEnd ls s = .next t ∧ t.PH = .idle ∧ (u.busy = false → t = u) ∧
      (u.busy = true → t.commandOver = true ∧ t.OUT = fromState t.S))

/-! ## The trace port -/

/-- R155, R22: without `HAS_TRACE` there is no trace port; with it, during a step that will execute an ARK `trace_valid` is
1, the round and the round key are those of the ARK, and `trace_state` is the state that the ARK writes; in every other
phase `trace_valid` is 0. -/
def Obligations.TraceShowsEachArk : Prop :=
  ∀ (s t : State), (s.outputs {}).trace = none ∧
    ∃ tr, (s.outputs { hasTrace := true }).trace = some tr ∧ tr.valid = (s.PH == .ark) ∧
      (exec (.ark s.OPR) s = .next t →
        tr.round = s.RND ∧ some tr.key = s.currentRoundKey ∧ tr.state = t.S)

/-- R155: one event per ARK, so eleven per command: rounds 0 to 10 with the round keys of the schedule in ENC, rounds 10
to 0 with those of the inverse schedule in DEC. -/
def Obligations.ElevenTraceEventsPerCommand : Prop :=
  (∀ (s : State) (key block : Block), s.Resting → s.presents false key block → s.noReset 43 →
    (traceEvents 43 s).map (fun tr => (tr.round.toNat, tr.key)) =
      (List.finRange 11).map fun r => (r.val, roundKey (expandKey key) r)) ∧
  (∀ (s : State) (key block : Block), s.Resting → s.presents true key block → s.noReset 44 →
    (traceEvents 44 s).map (fun tr => (tr.round.toNat, tr.key)) =
      (List.finRange 11).reverse.map fun r => (r.val, roundKey (invertForDecryption (expandKey key)) r))

/-! ## The functions -/

/-- R60, its bit-by-bit form, which the spec marks as derived: `double` bit by bit. -/
def Obligations.DoubleBitByBit : Prop :=
  ∀ a : Byte,
    (gf28Double a).getLsbD 7 = a.getLsbD 6 ∧ (gf28Double a).getLsbD 6 = a.getLsbD 5 ∧
    (gf28Double a).getLsbD 5 = a.getLsbD 4 ∧ (gf28Double a).getLsbD 4 = (a.getLsbD 3 ^^ a.getLsbD 7) ∧
    (gf28Double a).getLsbD 3 = (a.getLsbD 2 ^^ a.getLsbD 7) ∧ (gf28Double a).getLsbD 2 = a.getLsbD 1 ∧
    (gf28Double a).getLsbD 1 = (a.getLsbD 0 ^^ a.getLsbD 7) ∧ (gf28Double a).getLsbD 0 = a.getLsbD 7

/-- R63: the laws that DOC0 states as testable properties, for all bytes. -/
def Obligations.MultiplyLaws : Prop :=
  ∀ a b c : Byte, gf28Multiply a 1 = a ∧ gf28Multiply a 0 = 0 ∧ gf28Multiply a b = gf28Multiply b a ∧
    gf28Multiply a (b ^^^ c) = gf28Multiply a b ^^^ gf28Multiply a c

/-- R62, which the spec marks as derived: `multiply` is the product of the polynomials, reduced modulo `x^8 + x^4 + x^3 +
x + 1`. -/
def Obligations.MultiplyIsPolynomialProduct : Prop :=
  ∀ a b : Byte, gf28Multiply a b = polyReduce (polyProduct a b)

/-- R62, which the spec marks as derived: multiplication is associative, and every non-zero byte has exactly one
multiplicative inverse. -/
def Obligations.MultiplyIsAssociativeWithUniqueInverses : Prop :=
  (∀ a b c : Byte, gf28Multiply (gf28Multiply a b) c = gf28Multiply a (gf28Multiply b c)) ∧
  (∀ a : Byte, a ≠ 0 → ∃ b, gf28Multiply a b = 1 ∧ ∀ b', gf28Multiply a b' = 1 → b' = b)

/-- R32, R71 and, for the fixed points, R70, where the spec marks them as derived: the tables undo each other, and the
forward one has no fixed point and no complement fixed point. -/
def Obligations.TablesAreMutualInverses : Prop :=
  ∀ x : Byte, ISBOX (SBOX x) = x ∧ SBOX (ISBOX x) = x ∧ SBOX x ≠ x ∧ SBOX x ≠ x ^^^ 0xFF#8

/-- R74, which the spec marks as not in its source, and R75, where it is derived: the forward table is the field inverse
followed by the affine map, and the round constants are 1 and its successive doublings. -/
def Obligations.TablesHaveTheirAlgebraicForm : Prop :=
  SBOX 0 = affine 0 ∧ (∀ x b : Byte, gf28Multiply x b = 1 → SBOX x = affine b) ∧
  RCON 0 = 0x01#8 ∧ (∀ j : Fin 9, RCON j.succ = gf28Double (RCON j.castSucc))

/-- R80 to R83 (half of R82, and R83, are marked as derived): `to_state` puts byte `i` at row `i mod 4`, column `i div 4`,
`from_state` reads it back, each undoes the other, and in flat form both are the identity. -/
def Obligations.CodecIsLosslessWiring : Prop :=
  ∀ b : Block, (∀ i : Fin 16, cell (toState b) ⟨i.val % 4, by omega⟩ ⟨i.val / 4, by omega⟩ = byte b i) ∧
    fromState (toState b) = b ∧ toState (fromState b) = b ∧ toState b = b ∧ fromState b = b

/-- R87, R89, R94, R95, where the spec marks most of it as derived: each transformation is undone by its inverse, in both
orders, and AddRoundKey, a 128-bit XOR, by itself. -/
def Obligations.TransformationsAreInverted : Prop :=
  ∀ s rk : Block,
    subbytesInverse (subbytesForward s) = s ∧ subbytesForward (subbytesInverse s) = s ∧
    shiftrowsInverse (shiftrowsForward s) = s ∧ shiftrowsForward (shiftrowsInverse s) = s ∧
    mixcolumnsInverse (mixcolumnsForward s) = s ∧ mixcolumnsForward (mixcolumnsInverse s) = s ∧
    addroundkey (addroundkey s rk) rk = s ∧ addroundkey s rk = s ^^^ rk

/-- R96, and R92's linearity, which the spec marks as derived: the byte and the row transformations commute, and the
inverse column transform passes through AddRoundKey onto the words of the round key; the forward one is linear. -/
def Obligations.EquivalentInverseIdentities : Prop :=
  ∀ s k : Block,
    subbytesInverse (shiftrowsInverse s) = shiftrowsInverse (subbytesInverse s) ∧
    subbytesForward (shiftrowsForward s) = shiftrowsForward (subbytesForward s) ∧
    mixcolumnsInverse (addroundkey s k) = addroundkey (mixcolumnsInverse s) (ofColumns fun c => invMixWord (column k c)) ∧
    mixcolumnsForward (s ^^^ k) = mixcolumnsForward s ^^^ mixcolumnsForward k

/-- R100, R101, R102, R105: the word helpers, byte by byte. -/
def Obligations.WordHelpersByteByByte : Prop :=
  (∀ (w : Word) (k : Fin 4), wordByte (rotWord w) k = wordByte w (k + 1) ∧
    wordByte (subWord w) k = SBOX (wordByte w k) ∧
    wordByte (invMixWord w) k = circulant mixInverse (wordByte w) k) ∧
  (∀ j : Fin 10, wordByte (rconWord j) 0 = RCON j ∧ ∀ k : Fin 4, k ≠ 0 → wordByte (rconWord j) k = 0#8)

/-- R103, R104: `expand_key` seeds words 0..3 from the key and computes every later word by the recurrence; and different
keys have different schedules. -/
def Obligations.ExpandKeyIsTheRecurrence : Prop :=
  (∀ key : Block, (∀ j : Fin 4, (expandKey key)[j.val] = column key j) ∧
    ∀ n : Fin 40, (expandKey key)[n.val + 4] = (expandKey key)[n.val] ^^^
      (if (n.val + 4) % 4 = 0 then
        subWord (rotWord (expandKey key)[n.val + 3]) ^^^ rconWord ⟨(n.val + 4) / 4 - 1, by omega⟩
      else (expandKey key)[n.val + 3])) ∧
  (∀ key key' : Block, expandKey key = expandKey key' → key = key')

/-- R106, its flat form, which the spec marks as derived: the round keys of rounds 1..9 of the inverse schedule are
`mixcolumns_inverse` of the schedule's, those of rounds 0 and 10 are the same. -/
def Obligations.InverseScheduleByRoundKeys : Prop :=
  ∀ (w : KeySchedule) (r : Fin 11), roundKey (invertForDecryption w) r =
    if r = 0 ∨ r = 10 then roundKey w r else mixcolumnsInverse (roundKey w r)

/-- R136: the round trip, for every key and every block, and the other way round, which the spec marks as derived. -/
def Obligations.DecryptUndoesEncrypt : Prop :=
  ∀ block key : Block, decrypt (encrypt block key) key = block ∧ encrypt (decrypt block key) key = block

/-! ## The wrapper -/

/-- R147: in a byte-sequence wrapper a block or key that is not 16 bytes long fails with `InvalidLength`, with no next
state.  The wrapper itself is the model's own (log 10): sixteen bytes each are presented to the core at the coming edge, byte
0 first, without touching a register. -/
def Obligations.WrapperChecksLengthsFirst : Prop :=
  ∀ (s : State) (op : Bool) (block key : List Byte),
    ((block.length ≠ 16 ∨ key.length ≠ 16) → present op block key s = .fault .invalidLength) ∧
    (∀ (hb : block.length = 16) (hk : key.length = 16),
      ∃ k b, present op block key s =
          .next { s with pins := { rst := false, start := true, op := op, key := k, blockIn := b } } ∧
        ∀ i : Fin 16, byte k i = key[i] ∧ byte b i = block[i])

end
end

