-- ==== Sys2Proof/Laws/Bytes.lean ====
section
/-! SUPPORT. Reading back what was put together (00_scope.md R4, R6): bytes, words, cells, columns. -/

namespace Sys2Proof.Machine

theorem byte_getLsbD (v : Block) (i : Fin 16) (k : Nat) :
    (byte v i).getLsbD k = (decide (k < 8) && v.getLsbD (120 - 8 * i.val + k)) := by
  simp [byte, BitVec.getLsbD_extractLsb']

theorem wordByte_getLsbD (w : Word) (i : Fin 4) (k : Nat) :
    (wordByte w i).getLsbD k = (decide (k < 8) && w.getLsbD (24 - 8 * i.val + k)) := by
  simp [wordByte, BitVec.getLsbD_extractLsb']

theorem column_getLsbD (v : Block) (c : Fin 4) (k : Nat) :
    (column v c).getLsbD k = (decide (k < 32) && v.getLsbD (96 - 32 * c.val + k)) := by
  simp [column, BitVec.getLsbD_extractLsb']

/-- A block is its bytes. -/
theorem block_ext {v w : Block} (h : ∀ i, byte v i = byte w i) : v = w := by
  apply BitVec.eq_of_getLsbD_eq
  intro k hk
  have hb := congrArg (·.getLsbD (k % 8)) (h ⟨15 - k / 8, by omega⟩)
  simp only [byte_getLsbD] at hb
  have hm : k % 8 < 8 := by omega
  have hp : 120 - 8 * (15 - k / 8) + k % 8 = k := by omega
  simpa [hm, hp] using hb

/-- A word is its bytes. -/
theorem word_ext {v w : Word} (h : ∀ i, wordByte v i = wordByte w i) : v = w := by
  apply BitVec.eq_of_getLsbD_eq
  intro k hk
  have hb := congrArg (·.getLsbD (k % 8)) (h ⟨3 - k / 8, by omega⟩)
  simp only [wordByte_getLsbD] at hb
  have hm : k % 8 < 8 := by omega
  have hp : 24 - 8 * (3 - k / 8) + k % 8 = k := by omega
  simpa [hm, hp] using hb

theorem word_getLsbD (b0 b1 b2 b3 : Byte) (k : Nat) : (word b0 b1 b2 b3).getLsbD k =
    if k < 8 then b3.getLsbD k else if k - 8 < 8 then b2.getLsbD (k - 8)
    else if k - 8 - 8 < 8 then b1.getLsbD (k - 8 - 8) else b0.getLsbD (k - 8 - 8 - 8) := by
  show BitVec.getLsbD (w := 8 + 8 + 8 + 8) (b0 ++ b1 ++ b2 ++ b3) k = _
  simp only [BitVec.getLsbD_append]

theorem ofColumns_getLsbD (f : Fin 4 → Word) (k : Nat) : (ofColumns f).getLsbD k =
    if k < 32 then (f 3).getLsbD k else if k - 32 < 32 then (f 2).getLsbD (k - 32)
    else if k - 32 - 32 < 32 then (f 1).getLsbD (k - 32 - 32) else (f 0).getLsbD (k - 32 - 32 - 32) := by
  show BitVec.getLsbD (w := 32 + 32 + 32 + 32) (f 0 ++ f 1 ++ f 2 ++ f 3) k = _
  simp only [BitVec.getLsbD_append]

@[simp] theorem wordByte_word (b0 b1 b2 b3 : Byte) (i : Fin 4) : wordByte (word b0 b1 b2 b3) i = ![b0, b1, b2, b3] i := by
  apply BitVec.eq_of_getLsbD_eq
  intro k hk
  rw [wordByte_getLsbD, word_getLsbD]
  fin_cases i <;> simp [hk, -BitVec.getLsbD_eq_getElem] <;> (repeat' split) <;> first | omega | (congr 1; omega)

@[simp] theorem column_ofColumns (f : Fin 4 → Word) (c : Fin 4) : column (ofColumns f) c = f c := by
  apply BitVec.eq_of_getLsbD_eq
  intro k hk
  rw [column_getLsbD, ofColumns_getLsbD]
  fin_cases c <;> simp [hk, -BitVec.getLsbD_eq_getElem] <;> (repeat' split) <;> first | omega | (congr 1; omega)

theorem rowOf_place (r c : Fin 4) : rowOf (place r c) = r := by ext; simp [rowOf, place]

theorem colOf_place (r c : Fin 4) : colOf (place r c) = c := by ext; simp [colOf, place]; omega

theorem place_rowOf_colOf (i : Fin 16) : place (rowOf i) (colOf i) = i := by ext; simp [place, rowOf, colOf]; omega

/-- A flat state is its cells (R6). -/
theorem cells_ext {s t : Block} (h : ∀ r c, cell s r c = cell t r c) : s = t := by
  apply block_ext
  intro i
  simpa [cell, place_rowOf_colOf] using h (rowOf i) (colOf i)

/-- Row `r` of column `c` is byte `r` of the column's word (R83). -/
theorem wordByte_column (s : Block) (r c : Fin 4) : wordByte (column s c) r = cell s r c := by
  apply BitVec.eq_of_getLsbD_eq
  intro k hk
  rw [wordByte_getLsbD, column_getLsbD, cell, byte_getLsbD, place]
  have h1 : 24 - 8 * r.val + k < 32 := by omega
  have h2 : 96 - 32 * c.val + (24 - 8 * r.val + k) = 120 - 8 * (r.val + 4 * c.val) + k := by omega
  simp [h1, h2]

@[simp] theorem cell_ofColumns (f : Fin 4 → Word) (r c : Fin 4) : cell (ofColumns f) r c = wordByte (f c) r := by
  rw [← wordByte_column, column_ofColumns]

/-- A vector of bytes, byte by byte. -/
@[simp] theorem byte_ofBytes (f : Fin 16 → Byte) (i : Fin 16) : byte (ofBytes f) i = f i := by
  have h : ∀ r c, byte (ofBytes f) (place r c) = f (place r c) := by
    intro r c
    rw [← cell, ofBytes, cell_ofColumns, wordByte_word]
    fin_cases r <;> rfl
  simpa [place_rowOf_colOf] using h (rowOf i) (colOf i)

@[simp] theorem cell_ofCells (f : Fin 4 → Fin 4 → Byte) (r c : Fin 4) : cell (ofCells f) r c = f r c := by
  simp [cell, ofCells, rowOf_place, colOf_place]

/-! ## The transformations, cell by cell -/

@[simp] theorem cell_toState (b : Block) (r c : Fin 4) : cell (toState b) r c = byte b (place r c) := by simp [toState]

@[simp] theorem byte_fromState (s : Block) (i : Fin 16) : byte (fromState s) i = cell s (rowOf i) (colOf i) := by
  simp [fromState]

@[simp] theorem cell_subbytesForward (s : Block) (r c : Fin 4) : cell (subbytesForward s) r c = SBOX (cell s r c) := by
  simp [subbytesForward]

@[simp] theorem cell_subbytesInverse (s : Block) (r c : Fin 4) : cell (subbytesInverse s) r c = ISBOX (cell s r c) := by
  simp [subbytesInverse]

@[simp] theorem cell_shiftrowsForward (s : Block) (r c : Fin 4) : cell (shiftrowsForward s) r c = cell s r (c + r) := by
  simp [shiftrowsForward]

@[simp] theorem cell_shiftrowsInverse (s : Block) (r c : Fin 4) : cell (shiftrowsInverse s) r c = cell s r (c - r) := by
  simp [shiftrowsInverse]

@[simp] theorem cell_mixcolumnsForward (s : Block) (r c : Fin 4) :
    cell (mixcolumnsForward s) r c = wordByte (mixcolF (column s c)) r := by simp [mixcolumnsForward]

@[simp] theorem cell_mixcolumnsInverse (s : Block) (r c : Fin 4) :
    cell (mixcolumnsInverse s) r c = wordByte (mixcolI (column s c)) r := by simp [mixcolumnsInverse]

@[simp] theorem cell_addroundkey (s rk : Block) (r c : Fin 4) :
    cell (addroundkey s rk) r c = cell s r c ^^^ cell rk r c := by
  simp [addroundkey, wordByte_column]

end Sys2Proof.Machine
end

