-- ==== Sys2Proof/Laws/KeySchedule.lean ====
section
/-! SUPPORT. Reading the key-schedule register file after the operations that write it. -/

namespace Sys2Proof.Machine

@[simp] theorem scheduleOf_getElem (f : Fin 44 → Word) (i : Nat) (h : i < 44) : (scheduleOf f)[i] = f ⟨i, h⟩ := by
  simp [scheduleOf]

/-- INVERT's function word by word (R106). -/
theorem invertForDecryption_getElem (w : KeySchedule) (i : Nat) (h : i < 44) :
    (invertForDecryption w)[i] = if 4 ≤ i ∧ i ≤ 39 then invMixWord w[i] else w[i] := by
  simp [invertForDecryption]

/-- Seeding leaves words 4..43 (R113). -/
theorem seedWords_getElem_high (k : Block) (w : KeySchedule) (i : Nat) (h : i < 44) (h4 : 4 ≤ i) :
    (seedWords k w)[i] = w[i] := by
  unfold seedWords
  rw [Vector.getElem_set_ne, Vector.getElem_set_ne, Vector.getElem_set_ne, Vector.getElem_set_ne] <;> omega

/-- Seeding writes the key's words to words 0..3 (R35 item 2, R113). -/
theorem seedWords_getElem_low (k : Block) (w : KeySchedule) (j : Fin 4) : (seedWords k w)[j.val] = column k j := by
  fin_cases j <;> simp [seedWords]

/-- The loop does not touch the words it has not come to. -/
theorem expandLoop_getElem_later (w : KeySchedule) (n : Nat) (hn : n ≤ 40) (i : Nat) (h : i < 44) (hi : n + 4 ≤ i) :
    (expandLoop w n hn)[i] = w[i] := by
  induction n with
  | zero => rfl
  | succ n ih =>
    simp only [expandLoop]
    rw [Vector.getElem_set_ne _ _ (by omega)]
    exact ih (by omega) (by omega)

/-- Nor words 0..3. -/
theorem expandLoop_getElem_low (w : KeySchedule) (n : Nat) (hn : n ≤ 40) (i : Nat) (h : i < 4) :
    (expandLoop w n hn)[i] = w[i] := by
  induction n with
  | zero => rfl
  | succ n ih =>
    simp only [expandLoop]
    rw [Vector.getElem_set_ne _ _ (by omega)]
    exact ih (by omega)

/-- Later iterations keep the words already written. -/
theorem expandLoop_getElem_stable (w : KeySchedule) (n m : Nat) (hn : n ≤ m) (hm : m ≤ 40) (i : Nat) (hi : i < n + 4) :
    (expandLoop w m hm)[i] = (expandLoop w n (by omega))[i] := by
  induction m with
  | zero =>
    obtain rfl : n = 0 := Nat.le_zero.mp hn
    rfl
  | succ m ih =>
    rcases Nat.lt_or_ge n (m + 1) with hlt | hge
    · simp only [expandLoop]
      rw [Vector.getElem_set_ne _ _ (by omega)]
      exact ih (by omega) (by omega)
    · obtain rfl : n = m + 1 := by omega
      rfl

end Sys2Proof.Machine
end

