-- ==== Sys2Proof/Laws/State.lean ====
section
/-! SUPPORT. What each register write leaves in each field, and the reset state by fields: all true by definition. -/

namespace Sys2Proof.Machine

@[simp] theorem State.setS_S (s : State) (v : Block) : (s.setS v).S = v := rfl
@[simp] theorem State.setS_KS (s : State) (v : Block) : (s.setS v).KS = s.KS := rfl
@[simp] theorem State.setS_OUT (s : State) (v : Block) : (s.setS v).OUT = s.OUT := rfl
@[simp] theorem State.setS_OPR (s : State) (v : Block) : (s.setS v).OPR = s.OPR := rfl
@[simp] theorem State.setS_PH (s : State) (v : Block) : (s.setS v).PH = s.PH := rfl
@[simp] theorem State.setS_RND (s : State) (v : Block) : (s.setS v).RND = s.RND := rfl
@[simp] theorem State.setS_DONE (s : State) (v : Block) : (s.setS v).DONE = s.DONE := rfl
@[simp] theorem State.setS_pins (s : State) (v : Block) : (s.setS v).pins = s.pins := rfl
@[simp] theorem State.setS_script (s : State) (v : Block) : (s.setS v).script = s.script := rfl
@[simp] theorem State.setS_tick (s : State) (v : Block) : (s.setS v).tick = s.tick := rfl

@[simp] theorem State.setKS_S (s : State) (v : KeySchedule) : (s.setKS v).S = s.S := rfl
@[simp] theorem State.setKS_KS (s : State) (v : KeySchedule) : (s.setKS v).KS = v := rfl
@[simp] theorem State.setKS_OUT (s : State) (v : KeySchedule) : (s.setKS v).OUT = s.OUT := rfl
@[simp] theorem State.setKS_OPR (s : State) (v : KeySchedule) : (s.setKS v).OPR = s.OPR := rfl
@[simp] theorem State.setKS_PH (s : State) (v : KeySchedule) : (s.setKS v).PH = s.PH := rfl
@[simp] theorem State.setKS_RND (s : State) (v : KeySchedule) : (s.setKS v).RND = s.RND := rfl
@[simp] theorem State.setKS_DONE (s : State) (v : KeySchedule) : (s.setKS v).DONE = s.DONE := rfl
@[simp] theorem State.setKS_pins (s : State) (v : KeySchedule) : (s.setKS v).pins = s.pins := rfl
@[simp] theorem State.setKS_script (s : State) (v : KeySchedule) : (s.setKS v).script = s.script := rfl
@[simp] theorem State.setKS_tick (s : State) (v : KeySchedule) : (s.setKS v).tick = s.tick := rfl

@[simp] theorem State.setOUT_S (s : State) (v : Block) : (s.setOUT v).S = s.S := rfl
@[simp] theorem State.setOUT_KS (s : State) (v : Block) : (s.setOUT v).KS = s.KS := rfl
@[simp] theorem State.setOUT_OUT (s : State) (v : Block) : (s.setOUT v).OUT = v := rfl
@[simp] theorem State.setOUT_OPR (s : State) (v : Block) : (s.setOUT v).OPR = s.OPR := rfl
@[simp] theorem State.setOUT_PH (s : State) (v : Block) : (s.setOUT v).PH = s.PH := rfl
@[simp] theorem State.setOUT_RND (s : State) (v : Block) : (s.setOUT v).RND = s.RND := rfl
@[simp] theorem State.setOUT_DONE (s : State) (v : Block) : (s.setOUT v).DONE = s.DONE := rfl
@[simp] theorem State.setOUT_pins (s : State) (v : Block) : (s.setOUT v).pins = s.pins := rfl
@[simp] theorem State.setOUT_script (s : State) (v : Block) : (s.setOUT v).script = s.script := rfl
@[simp] theorem State.setOUT_tick (s : State) (v : Block) : (s.setOUT v).tick = s.tick := rfl

@[simp] theorem State.setOPR_S (s : State) (v : Bool) : (s.setOPR v).S = s.S := rfl
@[simp] theorem State.setOPR_KS (s : State) (v : Bool) : (s.setOPR v).KS = s.KS := rfl
@[simp] theorem State.setOPR_OUT (s : State) (v : Bool) : (s.setOPR v).OUT = s.OUT := rfl
@[simp] theorem State.setOPR_OPR (s : State) (v : Bool) : (s.setOPR v).OPR = v := rfl
@[simp] theorem State.setOPR_PH (s : State) (v : Bool) : (s.setOPR v).PH = s.PH := rfl
@[simp] theorem State.setOPR_RND (s : State) (v : Bool) : (s.setOPR v).RND = s.RND := rfl
@[simp] theorem State.setOPR_DONE (s : State) (v : Bool) : (s.setOPR v).DONE = s.DONE := rfl
@[simp] theorem State.setOPR_pins (s : State) (v : Bool) : (s.setOPR v).pins = s.pins := rfl
@[simp] theorem State.setOPR_script (s : State) (v : Bool) : (s.setOPR v).script = s.script := rfl
@[simp] theorem State.setOPR_tick (s : State) (v : Bool) : (s.setOPR v).tick = s.tick := rfl

@[simp] theorem State.setPH_S (s : State) (v : Phase) : (s.setPH v).S = s.S := rfl
@[simp] theorem State.setPH_KS (s : State) (v : Phase) : (s.setPH v).KS = s.KS := rfl
@[simp] theorem State.setPH_OUT (s : State) (v : Phase) : (s.setPH v).OUT = s.OUT := rfl
@[simp] theorem State.setPH_OPR (s : State) (v : Phase) : (s.setPH v).OPR = s.OPR := rfl
@[simp] theorem State.setPH_PH (s : State) (v : Phase) : (s.setPH v).PH = v := rfl
@[simp] theorem State.setPH_RND (s : State) (v : Phase) : (s.setPH v).RND = s.RND := rfl
@[simp] theorem State.setPH_DONE (s : State) (v : Phase) : (s.setPH v).DONE = s.DONE := rfl
@[simp] theorem State.setPH_pins (s : State) (v : Phase) : (s.setPH v).pins = s.pins := rfl
@[simp] theorem State.setPH_script (s : State) (v : Phase) : (s.setPH v).script = s.script := rfl
@[simp] theorem State.setPH_tick (s : State) (v : Phase) : (s.setPH v).tick = s.tick := rfl

@[simp] theorem State.setRND_S (s : State) (v : BitVec 4) : (s.setRND v).S = s.S := rfl
@[simp] theorem State.setRND_KS (s : State) (v : BitVec 4) : (s.setRND v).KS = s.KS := rfl
@[simp] theorem State.setRND_OUT (s : State) (v : BitVec 4) : (s.setRND v).OUT = s.OUT := rfl
@[simp] theorem State.setRND_OPR (s : State) (v : BitVec 4) : (s.setRND v).OPR = s.OPR := rfl
@[simp] theorem State.setRND_PH (s : State) (v : BitVec 4) : (s.setRND v).PH = s.PH := rfl
@[simp] theorem State.setRND_RND (s : State) (v : BitVec 4) : (s.setRND v).RND = v := rfl
@[simp] theorem State.setRND_DONE (s : State) (v : BitVec 4) : (s.setRND v).DONE = s.DONE := rfl
@[simp] theorem State.setRND_pins (s : State) (v : BitVec 4) : (s.setRND v).pins = s.pins := rfl
@[simp] theorem State.setRND_script (s : State) (v : BitVec 4) : (s.setRND v).script = s.script := rfl
@[simp] theorem State.setRND_tick (s : State) (v : BitVec 4) : (s.setRND v).tick = s.tick := rfl

@[simp] theorem State.setDONE_S (s : State) (v : Bool) : (s.setDONE v).S = s.S := rfl
@[simp] theorem State.setDONE_KS (s : State) (v : Bool) : (s.setDONE v).KS = s.KS := rfl
@[simp] theorem State.setDONE_OUT (s : State) (v : Bool) : (s.setDONE v).OUT = s.OUT := rfl
@[simp] theorem State.setDONE_OPR (s : State) (v : Bool) : (s.setDONE v).OPR = s.OPR := rfl
@[simp] theorem State.setDONE_PH (s : State) (v : Bool) : (s.setDONE v).PH = s.PH := rfl
@[simp] theorem State.setDONE_RND (s : State) (v : Bool) : (s.setDONE v).RND = s.RND := rfl
@[simp] theorem State.setDONE_DONE (s : State) (v : Bool) : (s.setDONE v).DONE = v := rfl
@[simp] theorem State.setDONE_pins (s : State) (v : Bool) : (s.setDONE v).pins = s.pins := rfl
@[simp] theorem State.setDONE_script (s : State) (v : Bool) : (s.setDONE v).script = s.script := rfl
@[simp] theorem State.setDONE_tick (s : State) (v : Bool) : (s.setDONE v).tick = s.tick := rfl

@[simp] theorem State.setPins_S (s : State) (v : Pins) : (s.setPins v).S = s.S := rfl
@[simp] theorem State.setPins_KS (s : State) (v : Pins) : (s.setPins v).KS = s.KS := rfl
@[simp] theorem State.setPins_OUT (s : State) (v : Pins) : (s.setPins v).OUT = s.OUT := rfl
@[simp] theorem State.setPins_OPR (s : State) (v : Pins) : (s.setPins v).OPR = s.OPR := rfl
@[simp] theorem State.setPins_PH (s : State) (v : Pins) : (s.setPins v).PH = s.PH := rfl
@[simp] theorem State.setPins_RND (s : State) (v : Pins) : (s.setPins v).RND = s.RND := rfl
@[simp] theorem State.setPins_DONE (s : State) (v : Pins) : (s.setPins v).DONE = s.DONE := rfl
@[simp] theorem State.setPins_pins (s : State) (v : Pins) : (s.setPins v).pins = v := rfl
@[simp] theorem State.setPins_script (s : State) (v : Pins) : (s.setPins v).script = s.script := rfl
@[simp] theorem State.setPins_tick (s : State) (v : Pins) : (s.setPins v).tick = s.tick := rfl

@[simp] theorem State.setScript_S (s : State) (v : List Pins) : (s.setScript v).S = s.S := rfl
@[simp] theorem State.setScript_KS (s : State) (v : List Pins) : (s.setScript v).KS = s.KS := rfl
@[simp] theorem State.setScript_OUT (s : State) (v : List Pins) : (s.setScript v).OUT = s.OUT := rfl
@[simp] theorem State.setScript_OPR (s : State) (v : List Pins) : (s.setScript v).OPR = s.OPR := rfl
@[simp] theorem State.setScript_PH (s : State) (v : List Pins) : (s.setScript v).PH = s.PH := rfl
@[simp] theorem State.setScript_RND (s : State) (v : List Pins) : (s.setScript v).RND = s.RND := rfl
@[simp] theorem State.setScript_DONE (s : State) (v : List Pins) : (s.setScript v).DONE = s.DONE := rfl
@[simp] theorem State.setScript_pins (s : State) (v : List Pins) : (s.setScript v).pins = s.pins := rfl
@[simp] theorem State.setScript_script (s : State) (v : List Pins) : (s.setScript v).script = v := rfl
@[simp] theorem State.setScript_tick (s : State) (v : List Pins) : (s.setScript v).tick = s.tick := rfl

@[simp] theorem State.setTick_S (s : State) (v : Nat) : (s.setTick v).S = s.S := rfl
@[simp] theorem State.setTick_KS (s : State) (v : Nat) : (s.setTick v).KS = s.KS := rfl
@[simp] theorem State.setTick_OUT (s : State) (v : Nat) : (s.setTick v).OUT = s.OUT := rfl
@[simp] theorem State.setTick_OPR (s : State) (v : Nat) : (s.setTick v).OPR = s.OPR := rfl
@[simp] theorem State.setTick_PH (s : State) (v : Nat) : (s.setTick v).PH = s.PH := rfl
@[simp] theorem State.setTick_RND (s : State) (v : Nat) : (s.setTick v).RND = s.RND := rfl
@[simp] theorem State.setTick_DONE (s : State) (v : Nat) : (s.setTick v).DONE = s.DONE := rfl
@[simp] theorem State.setTick_pins (s : State) (v : Nat) : (s.setTick v).pins = s.pins := rfl
@[simp] theorem State.setTick_script (s : State) (v : Nat) : (s.setTick v).script = s.script := rfl
@[simp] theorem State.setTick_tick (s : State) (v : Nat) : (s.setTick v).tick = v := rfl

@[simp] theorem State.reset_S : State.reset.S = Config.freeS 0 := rfl
@[simp] theorem State.reset_OUT : State.reset.OUT = 0#128 := rfl
@[simp] theorem State.reset_OPR : State.reset.OPR = false := rfl
@[simp] theorem State.reset_PH : State.reset.PH = .idle := rfl
@[simp] theorem State.reset_RND : State.reset.RND = 0#4 := rfl
@[simp] theorem State.reset_DONE : State.reset.DONE = false := rfl
@[simp] theorem State.reset_pins : State.reset.pins = .quiet := rfl
@[simp] theorem State.reset_script : State.reset.script = [] := rfl
@[simp] theorem State.reset_tick : State.reset.tick = 1 := rfl

/-- Two states with the same fields are the same. -/
theorem State.ext_fields {s t : State} (h1 : s.S = t.S) (h2 : s.KS = t.KS) (h3 : s.OUT = t.OUT) (h4 : s.OPR = t.OPR)
    (h5 : s.PH = t.PH) (h6 : s.RND = t.RND) (h7 : s.DONE = t.DONE) (h8 : s.pins = t.pins) (h9 : s.script = t.script)
    (h10 : s.tick = t.tick) : s = t := by
  cases s; cases t; simp_all

end Sys2Proof.Machine
end

