-- ==== Sys2Proof/Laws/Ops.lean ====
section
/-! SUPPORT. What each shared operation can do, said once. -/

namespace Sys2Proof.Machine

/-! ## Guards -/

theorem fromReachable_next {s t : State} (h : s.reachable = true) : fromReachable s t = .next t := if_pos h

theorem fromReachable_refused {s t : State} (h : s.reachable = false) :
    fromReachable s t = .refused .unreachableController := if_neg (by simp [h])

theorem whenInForce_next {s t : State} {d : Bool} {ph : Phase} (hd : s.OPR = d) (hp : s.PH = ph)
    (h : s.reachable = true) : whenInForce s d ph t = .next t := by
  simp [whenInForce, hd, hp, fromReachable_next h]

theorem whenInForce_refused {s t : State} {d : Bool} {ph : Phase} (hd : s.OPR = d) (hp : s.PH = ph)
    (h : s.reachable = false) : whenInForce s d ph t = .refused .unreachableController := by
  simp [whenInForce, hd, hp, fromReachable_refused h]

/-- All that `fromReachable` can answer with a next state. -/
theorem fromReachable_cases {s t u : State} (h : fromReachable s t = .next u) : s.reachable = true ∧ t = u := by
  unfold fromReachable at h
  split at h
  · cases h; exact ⟨‹_›, rfl⟩
  · cases h

/-- All that `whenInForce` can answer with a next state: the code is in force, in a state that runs reach. -/
theorem whenInForce_cases {s t u : State} {d : Bool} {ph : Phase} (h : whenInForce s d ph t = .next u) :
    s.OPR = d ∧ s.PH = ph ∧ s.reachable = true ∧ t = u := by
  unfold whenInForce at h
  split at h
  · rename_i hf
    exact ⟨hf.1, hf.2, fromReachable_cases h⟩
  · cases h

theorem fromReachable_ne_fault {s t : State} {r : Fault} : fromReachable s t ≠ .fault r := by
  unfold fromReachable; split <;> simp

theorem whenInForce_ne_fault {s t : State} {d : Bool} {ph : Phase} {r : Fault} : whenInForce s d ph t ≠ .fault r := by
  unfold whenInForce; split
  · exact fromReachable_ne_fault
  · simp

/-! ## Outcomes -/

@[simp] theorem onNext_next (t : State) (f : State → State) : onNext (.next t) f = .next (f t) := rfl
@[simp] theorem onNext_fault (r : Fault) (f : State → State) : onNext (.fault r) f = .fault r := rfl
@[simp] theorem onNext_refused (r : Refusal) (f : State → State) : onNext (.refused r) f = .refused r := rfl

theorem onNext_cases {o : Outcome} {f : State → State} {u : State} (h : onNext o f = .next u) :
    ∃ t, o = .next t ∧ f t = u := by
  cases o <;> simp [onNext] at h
  exact ⟨_, rfl, h⟩

/-! ## The environment's sample: no register of the core changes -/

@[simp] theorem advance_S (s : State) : (advance s).S = s.S := by unfold advance; split <;> rfl
@[simp] theorem advance_KS (s : State) : (advance s).KS = s.KS := by unfold advance; split <;> rfl
@[simp] theorem advance_OUT (s : State) : (advance s).OUT = s.OUT := by unfold advance; split <;> rfl
@[simp] theorem advance_OPR (s : State) : (advance s).OPR = s.OPR := by unfold advance; split <;> rfl
@[simp] theorem advance_PH (s : State) : (advance s).PH = s.PH := by unfold advance; split <;> rfl
@[simp] theorem advance_RND (s : State) : (advance s).RND = s.RND := by unfold advance; split <;> rfl
@[simp] theorem advance_DONE (s : State) : (advance s).DONE = s.DONE := by unfold advance; split <;> rfl
@[simp] theorem advance_tick (s : State) : (advance s).tick = s.tick + 1 := by unfold advance; split <;> rfl

theorem advance_pins (s : State) : (advance s).pins = s.script.headD .quiet := by
  unfold advance; split <;> simp [*]

theorem advance_script (s : State) : (advance s).script = s.script.tail := by
  unfold advance; split <;> simp [*]

@[simp] theorem advance_reachable (s : State) : (advance s).reachable = s.reachable := by
  simp [State.reachable]

/-- The sample that an edge used up is gone: what was on the ports does not matter to what follows. -/
theorem advance_setPins (s : State) (p : Pins) : advance (s.setPins p) = advance s := by
  cases s; rename_i script _; cases script <;> rfl

/-! ## Taking a command (R113) -/

@[simp] theorem acceptCommand_S (op : Bool) (k b : Block) (s : State) : (acceptCommand op k b s).S = toState b := rfl
@[simp] theorem acceptCommand_KS (op : Bool) (k b : Block) (s : State) :
    (acceptCommand op k b s).KS = seedWords k s.KS := rfl
@[simp] theorem acceptCommand_OUT (op : Bool) (k b : Block) (s : State) : (acceptCommand op k b s).OUT = s.OUT := rfl
@[simp] theorem acceptCommand_OPR (op : Bool) (k b : Block) (s : State) : (acceptCommand op k b s).OPR = op := rfl
@[simp] theorem acceptCommand_PH (op : Bool) (k b : Block) (s : State) : (acceptCommand op k b s).PH = .expand := rfl
@[simp] theorem acceptCommand_RND (op : Bool) (k b : Block) (s : State) : (acceptCommand op k b s).RND = s.RND := rfl
@[simp] theorem acceptCommand_DONE (op : Bool) (k b : Block) (s : State) : (acceptCommand op k b s).DONE = false := rfl
@[simp] theorem acceptCommand_pins (op : Bool) (k b : Block) (s : State) : (acceptCommand op k b s).pins = s.pins := rfl
@[simp] theorem acceptCommand_script (op : Bool) (k b : Block) (s : State) :
    (acceptCommand op k b s).script = s.script := rfl
@[simp] theorem acceptCommand_tick (op : Bool) (k b : Block) (s : State) : (acceptCommand op k b s).tick = s.tick := rfl

/-! ## The reset edge (R161) -/

@[simp] theorem resetEdge_OUT (s : State) : (resetEdge s).OUT = 0#128 := rfl
@[simp] theorem resetEdge_OPR (s : State) : (resetEdge s).OPR = false := rfl
@[simp] theorem resetEdge_PH (s : State) : (resetEdge s).PH = .idle := rfl
@[simp] theorem resetEdge_RND (s : State) : (resetEdge s).RND = 0#4 := rfl
@[simp] theorem resetEdge_DONE (s : State) : (resetEdge s).DONE = false := rfl
@[simp] theorem resetEdge_pins (s : State) : (resetEdge s).pins = s.pins := rfl
@[simp] theorem resetEdge_script (s : State) : (resetEdge s).script = s.script := rfl
@[simp] theorem resetEdge_tick (s : State) : (resetEdge s).tick = s.tick := rfl

/-! ## The operand of ARK (R34, R52) -/

theorem currentRoundKey_some {s : State} (h : s.RND.toNat < 11) :
    s.currentRoundKey = some (roundKey s.KS ⟨s.RND.toNat, h⟩) := dif_pos h

theorem currentRoundKey_none {s : State} (h : ¬ s.RND.toNat < 11) : s.currentRoundKey = none := dif_neg h

end Sys2Proof.Machine
end

