-- ==== Sys2Proof/Laws/PerInstr.lean ====
section
/-! SUPPORT. One lemma for each constructor: which of the three formats its code has, and that the code fits it (R46, R49,
R51). -/

namespace Sys2Proof.Laws.Width

/-- The commands are 258 bits wide, LOAD 6 and the other micro-operations 4; and the code is a number of that width. -/
def Statement (i : Instr) : Prop :=
  (encode i).width = (match i with
    | .nop _ _ _ | .enc _ _ | .dec _ _ => 258
    | .load _ _ => 6
    | .idle _ | .expand _ | .invert | .ark _ | .sub | .isub | .shift | .ishift | .mix | .imix | .store _ => 4) ∧
  ∃ w : BitVec (encode i).width, (encode i).value = w.toNat

theorem nop (op : Bool) (key block : Block) : Statement (.nop op key block) := ⟨rfl, _, rfl⟩
theorem enc (key block : Block) : Statement (.enc key block) := ⟨rfl, _, rfl⟩
theorem dec (key block : Block) : Statement (.dec key block) := ⟨rfl, _, rfl⟩
theorem idle (opr : Bool) : Statement (.idle opr) := ⟨rfl, _, rfl⟩
theorem load (op opr : Bool) : Statement (.load op opr) := ⟨rfl, _, rfl⟩
theorem expand (opr : Bool) : Statement (.expand opr) := ⟨rfl, _, rfl⟩
theorem invert : Statement .invert := ⟨rfl, _, rfl⟩
theorem ark (opr : Bool) : Statement (.ark opr) := ⟨rfl, _, rfl⟩
theorem sub : Statement .sub := ⟨rfl, _, rfl⟩
theorem isub : Statement .isub := ⟨rfl, _, rfl⟩
theorem shift : Statement .shift := ⟨rfl, _, rfl⟩
theorem ishift : Statement .ishift := ⟨rfl, _, rfl⟩
theorem mix : Statement .mix := ⟨rfl, _, rfl⟩
theorem imix : Statement .imix := ⟨rfl, _, rfl⟩
theorem store (opr : Bool) : Statement (.store opr) := ⟨rfl, _, rfl⟩

end Sys2Proof.Laws.Width
end

