-- ==== Sys2Proof/Laws/Step.lean ====
section
/-! SUPPORT. What a step can do, said once: the code in force, the edge it makes, the step around it. -/

namespace Sys2Proof.Machine

/-! ## The code in force -/

/-- What the code of an edge decodes to, read off R51 and R127. -/
theorem decodeEdge_edgeCode (start op opr : Bool) (ph : Phase) :
    decodeEdge (edgeCode start op opr ph) =
      match ph, opr with
      | .idle, d => .ok (if start then .load op d else .idle d)
      | .expand, d => .ok (.expand d)
      | .invert, false => .error .invertForward
      | .invert, true => .ok .invert
      | .ark, d => .ok (.ark d)
      | .sub, false => .ok .sub
      | .sub, true => .ok .isub
      | .shift, false => .ok .shift
      | .shift, true => .ok .ishift
      | .mix, false => .ok .mix
      | .mix, true => .ok .imix
      | .store, d => .ok (.store d) := by
  cases ph <;> cases start <;> cases op <;> cases opr <;> rfl

/-! ## The edge -/

/-- The registers after an edge with `rst = 0`, by phase and direction: the arms of R127. -/
def edgeResult (s : State) : State :=
  match s.PH, s.OPR with
  | .idle, _ => if s.pins.start then acceptCommand s.pins.op s.pins.key s.pins.blockIn s else s
  | .expand, false => ((s.setKS (expandWords s.KS)).setPH .ark).setRND 0#4
  | .expand, true => (s.setKS (expandWords s.KS)).setPH .invert
  | .invert, _ => ((s.setKS (invertForDecryption s.KS)).setPH .ark).setRND 10#4
  | .ark, _ =>
    match s.currentRoundKey with
    | some rk => arkEdge rk s
    | none => s
  | .sub, false => (s.setS (subbytesForward s.S)).setPH .shift
  | .sub, true => (s.setS (subbytesInverse s.S)).setPH .shift
  | .shift, false => (s.setS (shiftrowsForward s.S)).setPH (afterShift s)
  | .shift, true => (s.setS (shiftrowsInverse s.S)).setPH (afterShift s)
  | .mix, false => (s.setS (mixcolumnsForward s.S)).setPH .ark
  | .mix, true => (s.setS (mixcolumnsInverse s.S)).setPH .ark
  | .store, _ => ((s.setOUT (fromState s.S)).setDONE true).setPH .idle

/-- In a controller state that runs reach with `PH = ARK` there is a round key. -/
theorem rnd_lt_of_reachable_ark {s : State} (hp : s.PH = .ark) (h : s.reachable = true) : s.RND.toNat < 11 := by
  simp [State.reachable, reachable, hp] at h
  omega

/-- With `rst = 0`, a step is the arm of its phase and then the environment's sample, in the controller states that runs
reach. -/
theorem step_reachable {s : State} (hr : s.pins.rst = false) (h : s.reachable = true) :
    step s = .next (advance (edgeResult s)) := by
  have hc := decodeEdge_edgeCode s.pins.start s.pins.op s.OPR s.PH
  have hk : s.PH = .ark → s.currentRoundKey = some (roundKey s.KS ⟨s.RND.toNat % 11, by omega⟩) := fun hp => by
    have hlt := rnd_lt_of_reachable_ark hp h
    rw [currentRoundKey_some hlt]
    congr 3
    exact (Nat.mod_eq_of_lt hlt).symm
  simp only [step, hr, Bool.false_eq_true, if_false, fetch, State.code]
  rw [hc]
  have hi : s.PH = .invert → s.OPR = true := fun hp => by
    cases ho : s.OPR
    · simp [State.reachable, reachable, hp, ho] at h
    · rfl
  cases hp : s.PH <;> cases ho : s.OPR <;>
    first
    | (exfalso; simp_all; done)
    | (cases hst : s.pins.start <;>
        simp [exec, execIdle, execLoad, execExpand, execInvert, execArk, execSub, execIsub, execShift, execIshift, execMix,
          execImix, execStore, edgeResult, hp, ho, hst, hk, whenInForce_next ho hp h])

/-- With `rst = 0` a step stops in the other controller states. -/
theorem step_unreachable {s : State} (hr : s.pins.rst = false) (h : s.reachable = false) :
    step s = .refused .unreachableController := by
  have hc := decodeEdge_edgeCode s.pins.start s.pins.op s.OPR s.PH
  simp only [step, hr, Bool.false_eq_true, if_false, fetch, State.code]
  rw [hc]
  cases hp : s.PH <;> cases ho : s.OPR <;> cases hst : s.pins.start <;>
    simp [exec, execIdle, execLoad, execExpand, execInvert, execArk, execSub, execIsub, execShift, execIshift, execMix,
      execImix, execStore, hst, whenInForce_refused ho hp h]
  all_goals cases s.currentRoundKey <;> simp

/-- All that a step can answer with a next state. -/
theorem step_cases {s t : State} (h : step s = .next t) :
    (s.pins.rst = true ∧ t = advance (resetEdge s)) ∨
    (s.pins.rst = false ∧ s.reachable = true ∧ t = advance (edgeResult s)) := by
  cases hr : s.pins.rst with
  | true =>
    simp [step, hr] at h
    exact .inl ⟨rfl, h.symm⟩
  | false =>
    cases hc : s.reachable with
    | true =>
      rw [step_reachable hr hc] at h
      cases h
      exact .inr ⟨rfl, rfl, rfl⟩
    | false =>
      rw [step_unreachable hr hc] at h
      cases h

/-! ## What an edge leaves -/

@[simp] theorem arkEdge_S (rk : Block) (s : State) : (arkEdge rk s).S = addroundkey s.S rk := by
  unfold arkEdge; dsimp only; split <;> rfl
@[simp] theorem arkEdge_KS (rk : Block) (s : State) : (arkEdge rk s).KS = s.KS := by
  unfold arkEdge; dsimp only; split <;> rfl
@[simp] theorem arkEdge_OUT (rk : Block) (s : State) : (arkEdge rk s).OUT = s.OUT := by
  unfold arkEdge; dsimp only; split <;> rfl
@[simp] theorem arkEdge_OPR (rk : Block) (s : State) : (arkEdge rk s).OPR = s.OPR := by
  unfold arkEdge; dsimp only; split <;> rfl
@[simp] theorem arkEdge_DONE (rk : Block) (s : State) : (arkEdge rk s).DONE = s.DONE := by
  unfold arkEdge; dsimp only; split <;> rfl
@[simp] theorem arkEdge_pins (rk : Block) (s : State) : (arkEdge rk s).pins = s.pins := by
  unfold arkEdge; dsimp only; split <;> rfl
@[simp] theorem arkEdge_script (rk : Block) (s : State) : (arkEdge rk s).script = s.script := by
  unfold arkEdge; dsimp only; split <;> rfl
@[simp] theorem arkEdge_tick (rk : Block) (s : State) : (arkEdge rk s).tick = s.tick := by
  unfold arkEdge; dsimp only; split <;> rfl

end Sys2Proof.Machine
end

