-- ==== Sys2Proof/Laws/Run.lean ====
section
/-! SUPPORT. Runs of several edges, and samples of the ports without reset. -/

namespace Sys2Proof.Machine

@[simp] theorem edges_zero (s : State) : edges 0 s = .next s := rfl

/-- A run is its first step and then the rest. -/
theorem edges_succ_of_next {s t : State} (n : Nat) (h : step s = .next t) : edges (n + 1) s = edges n t := by
  have hc : Sys2Proof.core.step s = .next t := h
  simp only [edges, Host.Core.run, hc]
  rfl

/-- A run whose first step stops has stopped. -/
theorem edges_succ_of_refused {s : State} {r : Refusal} (n : Nat) (h : step s = .refused r) :
    edges (n + 1) s = .refused r := by
  have hc : Sys2Proof.core.step s = .refused r := h
  simp only [edges, Host.Core.run, hc]
  rfl

theorem edges_succ_of_fault {s : State} {r : Fault} (n : Nat) (h : step s = .fault r) :
    edges (n + 1) s = .fault r := by
  have hc : Sys2Proof.core.step s = .fault r := h
  simp only [edges, Host.Core.run, hc]
  rfl

/-- A run that reaches a next state took a first step. -/
theorem edges_succ_cases {s u : State} {n : Nat} (h : edges (n + 1) s = .next u) :
    ∃ t, step s = .next t ∧ edges n t = .next u := by
  cases hs : step s with
  | next t => exact ⟨t, rfl, by rwa [← edges_succ_of_next n hs]⟩
  | fault r => rw [edges_succ_of_fault n hs] at h; cases h
  | refused r => rw [edges_succ_of_refused n hs] at h; cases h

/-- Runs follow one another. -/
theorem edges_add {s t : State} {m : Nat} (n : Nat) (h : edges m s = .next t) : edges (m + n) s = edges n t := by
  induction m generalizing s with
  | zero =>
    cases h
    rw [Nat.zero_add]
  | succ m ih =>
    obtain ⟨u, hu, hr⟩ := edges_succ_cases h
    rw [show m + 1 + n = m + n + 1 by omega, edges_succ_of_next _ hu]
    exact ih hr

theorem edges_one (s : State) : edges 1 s = step s := by
  cases hs : step s with
  | next t => exact edges_succ_of_next 0 hs
  | fault r => exact edges_succ_of_fault 0 hs
  | refused r => exact edges_succ_of_refused 0 hs

/-- Without reset over `n + 1` edges there is none at the first. -/
theorem noReset_here {s : State} {n : Nat} (h : s.noReset (n + 1)) : s.pins.rst = false :=
  h s.pins (by simp)

/-- After a step the samples are the script, so the rest of them is still without reset. -/
theorem noReset_advance {s : State} {n : Nat} (h : s.noReset (n + 1)) : (advance s).noReset n := by
  intro p hp
  cases hs : s.script with
  | nil =>
    rw [advance_pins, advance_script, hs] at hp
    cases n <;> simp_all [Pins.quiet]
  | cons q rest =>
    rw [advance_pins, advance_script, hs] at hp
    refine h p ?_
    rw [hs]
    simp only [List.take_succ_cons, List.mem_cons]
    exact .inr (by simpa using hp)

/-- Fewer edges ask for less. -/
theorem noReset_mono {s : State} {m n : Nat} (hmn : m ≤ n) (h : s.noReset n) : s.noReset m :=
  fun p hp => h p (List.take_subset_take_left _ hmn hp)

/-! ## Scripts -/

/-- A script in two parts runs the second from where the first ends, and stops where it stops. -/
theorem runScript_append (ls ms : List ScriptLine) (s : State) :
    runScript (ls ++ ms) s =
      match runScript ls s with
      | .next t => runScript ms t
      | .fault r => .fault r
      | .refused r => .refused r := by
  induction ls generalizing s with
  | nil => rfl
  | cons l rest ih =>
    simp only [List.cons_append, runScript]
    cases runLine l s with
    | next t => exact ih t
    | fault r => rfl
    | refused r => rfl

/-- The end of a run is `WAIT` from where its lines end. -/
theorem runToEnd_of_next {ls : List ScriptLine} {s u : State} (h : runScript ls s = .next u) :
    runToEnd ls s = runLine .wait u := by
  rw [runToEnd, runScript_append, h]
  dsimp only [runScript]
  cases runLine .wait u <;> rfl

/-- With no command in progress, `WAIT` is no edge. -/
theorem runLine_wait_of_idle {u : State} (h : u.busy = false) : runLine .wait u = .next u := by
  have hp : u.PH = .idle := by simpa [State.busy] using h
  simp [runLine, samples, State.edgesLeft, edgesLeft, hp, State.drive]

/-- With none in progress at the end of the lines, the run is over there. -/
theorem runToEnd_of_idle {ls : List ScriptLine} {s u : State} (h : runScript ls s = .next u) (hu : u.busy = false) :
    runToEnd ls s = .next u := by
  rw [runToEnd_of_next h, runLine_wait_of_idle hu]

end Sys2Proof.Machine
end

