-- ==== Sys2Proof/Tests/Slice0.lean ====
section
/-! SUPPORT. Tests and witnesses.  Expected values are those of 95_test_vectors.md and of the examples in the rules; codes
are written out from the tables of R46, R47 and R51. -/

namespace Sys2Proof.Tests

open Sys2Proof.Machine

set_option Elab.async false

/-! ## Small states -/

/-- The key of V1. -/
def key1 : Block := 0x2b7e151628aed2a6abf7158809cf4f3c
/-- The plaintext of V1. -/
def plain1 : Block := 0x3243f6a8885a308d313198a2e0370734
/-- The ciphertext of V1. -/
def cipher1 : Block := 0x3925841d02dc09fbdc118597196a0b32

/-- All registers 0, quiet ports. -/
def blank : State where
  S := 0#128
  KS := Vector.replicate 44 0#32
  OUT := 0#128
  OPR := false
  PH := .idle
  RND := 0#4
  DONE := false
  pins := .quiet
  script := []
  tick := 1

/-- The controller in a given state, with the state register given. -/
def during (opr : Bool) (ph : Phase) (rnd : BitVec 4) (v : Block) : State :=
  { blank with OPR := opr, PH := ph, RND := rnd, S := v }

/-- The ports present a command. -/
def asking (op : Bool) (key block : Block) (s : State) : State :=
  { s with pins := { rst := false, start := true, op := op, key := key, blockIn := block } }

/-- What one sees of the next state, if there is one. -/
def seen {α : Type} (f : State → α) (o : Outcome) : Option α :=
  match o with
  | .next t => some (f t)
  | _ => none

/-- The core about to store. -/
def storing : State := { during false .store 10 cipher1 with KS := expandKey key1 }

/-! ## Ill-formed listing lines -/

theorem test_listing_refuses_a_command : (⟨.enc key1 plain1, 0⟩ : Listed).wellFormed = false := by decide
theorem test_listing_refuses_nop : (⟨.nop false 0 0, 0⟩ : Listed).wellFormed = false := by decide
theorem test_listing_refuses_dec : (⟨.dec key1 cipher1, 0⟩ : Listed).wellFormed = false := by decide
theorem test_listing_refuses_ark_11 : (⟨.ark false, 11⟩ : Listed).wellFormed = false := by decide
theorem test_listing_refuses_sub_0 : (⟨.sub, 0⟩ : Listed).wellFormed = false := by decide
theorem test_listing_refuses_shift_0 : (⟨.shift, 0⟩ : Listed).wellFormed = false := by decide
theorem test_listing_refuses_isub_10 : (⟨.isub, 10⟩ : Listed).wellFormed = false := by decide
theorem test_listing_refuses_ishift_10 : (⟨.ishift, 10⟩ : Listed).wellFormed = false := by decide
theorem test_listing_refuses_mix_10 : (⟨.mix, 10⟩ : Listed).wellFormed = false := by decide
theorem test_listing_refuses_imix_0 : (⟨.imix, 0⟩ : Listed).wellFormed = false := by decide
theorem test_listing_refuses_store_at_the_wrong_end : (⟨.store true, 10⟩ : Listed).wellFormed = false := by decide
theorem test_listing_refuses_expand_5 : (⟨.expand false, 5⟩ : Listed).wellFormed = false := by decide
theorem test_listings_of_the_traces : ((encListing 10 ++ decListing 0).all Listed.wellFormed) = true := by decide

/-! ## Decoding words written out from the spec -/

theorem test_decode_enc :
    decodeTableWord 258 0x22b7e151628aed2a6abf7158809cf4f3c3243f6a8885a308d313198a2e0370734 = some (.enc key1 plain1) := by
  decide +kernel
theorem test_decode_dec :
    decodeTableWord 264 0x34d617468656d61746963733132333435b2389918ad617e029e7755713f265a57 =
      some (.dec 0x4d617468656d61746963733132333435 0xb2389918ad617e029e7755713f265a57) := by
  decide +kernel
theorem test_decode_nop : decodeTableWord 258 0 = some (.nop false 0 0) := by decide +kernel
theorem test_decode_nop_op_ignored :
    decodeTableWord 258 0x10000000000000000000000000000000100000000000000000000000000000002 = some (.nop true 1 2) := by
  decide +kernel
theorem test_decode_idle : decodeTableWord 8 0b1000 = some (.idle true) := by decide
theorem test_decode_load : decodeTableWord 8 0b101000 = some (.load false true) := by decide
theorem test_decode_expand : decodeTableWord 8 0b0001 = some (.expand false) := by decide
theorem test_decode_invert : decodeTableWord 8 0b1010 = some .invert := by decide
theorem test_decode_ark : decodeTableWord 8 0b1011 = some (.ark true) := by decide
theorem test_decode_sub : decodeTableWord 8 0b0100 = some .sub := by decide
theorem test_decode_isub : decodeTableWord 8 0b1100 = some .isub := by decide
theorem test_decode_shift : decodeTableWord 8 0b0101 = some .shift := by decide
theorem test_decode_ishift : decodeTableWord 8 0b1101 = some .ishift := by decide
theorem test_decode_mix : decodeTableWord 8 0b0110 = some .mix := by decide
theorem test_decode_imix : decodeTableWord 8 0b1110 = some .imix := by decide
theorem test_decode_store : decodeTableWord 8 0b0111 = some (.store false) := by decide
theorem test_decode_rejects_0010 : decode 4 0b0010 = .error .invertForward := by decide
theorem test_decode_rejects_a_busy_accept : decode 6 0b100001 = .error .notAnAccept := by decide
theorem test_decode_rejects_an_accept_without_start : decode 6 0b010000 = .error .notAnAccept := by decide
theorem test_decode_rejects_a_wide_code : decode 8 64 = .error (.notACode 8 64) := by decide
theorem test_decode_edge_reads_start_in_idle_only :
    decodeEdge 0b100100#6 = .ok .sub ∧ decodeEdge 0b110000#6 = .ok (.load true false) ∧
      decodeEdge 0b010000#6 = .ok (.idle false) := by decide

/-! ## One step of each instruction -/

/-- R115. -/
theorem test_nop_rests : exec (.nop true key1 plain1) { blank with OUT := cipher1 } = .next { blank with OUT := cipher1 } := rfl
/-- R114. -/
theorem test_nop_busy_does_the_shift :
    seen State.S (exec (.nop false 0 0) (during false .shift 1 0xd42711aee0bf98f1b8b45de51e415230)) =
      some 0xd4bf5d30e0b452aeb84111f11e2798e5 := by decide +kernel
/-- The example of R113. -/
theorem test_enc_takes_its_operands :
    seen (fun t => (t.S, t.KS[0], t.KS[3], t.OPR, t.PH)) (exec (.enc key1 plain1) { blank with DONE := true }) =
      some (plain1, 0x2b7e1516, 0x09cf4f3c, false, .expand) := by decide +kernel
/-- R114: a command on the ports while busy is ignored. -/
theorem test_enc_busy_is_ignored :
    seen (fun t => (t.S, t.PH)) (exec (.enc key1 plain1) (during true .mix 1 0x046681e5e0cb199a48f8d37a2806264c)) =
      some (0xd4bf5d30e0b452aeb84111f11e2798e5, .ark) := by decide +kernel
/-- R113: `OUT` and `RND` stay, `DONE` is cleared. -/
theorem test_dec_clears_done :
    seen (fun t => (t.DONE, t.OUT, t.RND, t.OPR)) (exec (.dec key1 cipher1) { blank with DONE := true, OUT := 7, RND := 10 }) =
      some (false, 7, 10, true) := by decide +kernel
/-- R115. -/
theorem test_idle_needs_start_0 : exec (.idle false) (asking false key1 plain1 blank) = .refused .notInForce := rfl
/-- R113, from the ports. -/
theorem test_load_reads_the_ports :
    seen (fun t => (t.S, t.KS[1], t.OPR)) (exec (.load true false) (asking true key1 plain1 blank)) =
      some (plain1, 0x28aed2a6, true) := by decide +kernel
/-- The example of R116. -/
theorem test_expand_words_4_and_43 :
    seen (fun t => (t.KS[4], t.KS[43], t.PH, t.RND))
      (exec (.expand false) { during false .expand 10 0 with KS := seedWords key1 blank.KS }) =
      some (0xa0fafe17, 0xb6630ca6, .ark, 0) := by decide +kernel
/-- R116 in DEC. -/
theorem test_expand_then_invert :
    seen (fun t => (t.PH, t.RND)) (exec (.expand true) (during true .expand 10 0)) = some (.invert, 10) := by decide +kernel
/-- The example of R117, and the ends of the range 4..39, from the first table of section 6. -/
theorem test_invert_words_4_to_39 :
    seen (fun t => (t.KS[3], t.KS[4], t.KS[39], t.KS[40], t.RND))
      (exec .invert { during true .invert 0 0 with KS := expandKey key1 }) =
      some (0x09cf4f3c, 0x2b3708a7, 0x664cfbb4, 0xd014f9a8, 10) := by decide +kernel
/-- The example of R118. -/
theorem test_ark_first :
    seen (fun t => (t.S, t.PH, t.RND)) (exec (.ark false) { during false .ark 0 plain1 with KS := expandKey key1 }) =
      some (0x193de3bea0f4e22b9ac68d2ae9f84808, .sub, 1) := by decide +kernel
/-- R118: the last ARK of a DEC, row 42 of the trace of V5. -/
theorem test_ark_last :
    seen (fun t => (t.S, t.PH, t.RND))
      (exec (.ark true) { during true .ark 0 0x193de3bea0f4e22b9ac68d2ae9f84808 with KS := seedWords key1 blank.KS }) =
      some (plain1, .store, 0) := by decide +kernel
/-- The example of R119. -/
theorem test_sub :
    seen (fun t => (t.S, t.PH)) (exec .sub (during false .sub 1 0x193de3bea0f4e22b9ac68d2ae9f84808)) =
      some (0xd42711aee0bf98f1b8b45de51e415230, .shift) := by decide +kernel
/-- The example of R120. -/
theorem test_isub :
    seen (fun t => (t.S, t.PH)) (exec .isub (during true .sub 0 0xd42711aee0bf98f1b8b45de51e415230)) =
      some (0x193de3bea0f4e22b9ac68d2ae9f84808, .shift) := by decide +kernel
/-- The example of R121, in round 10. -/
theorem test_shift_skips_mix_in_round_10 :
    seen (fun t => (t.S, t.PH)) (exec .shift (during false .shift 10 0xd42711aee0bf98f1b8b45de51e415230)) =
      some (0xd4bf5d30e0b452aeb84111f11e2798e5, .ark) := by decide +kernel
/-- R121 in round 9. -/
theorem test_shift_then_mix : seen State.PH (exec .shift (during false .shift 9 0)) = some .mix := by decide +kernel
/-- The example of R122, in round 0. -/
theorem test_ishift_skips_imix_in_round_0 :
    seen (fun t => (t.S, t.PH)) (exec .ishift (during true .shift 0 0xd4bf5d30e0b452aeb84111f11e2798e5)) =
      some (0xd42711aee0bf98f1b8b45de51e415230, .ark) := by decide +kernel
/-- R122 in round 1. -/
theorem test_ishift_then_imix : seen State.PH (exec .ishift (during true .shift 1 0)) = some .mix := by decide +kernel
/-- The example of R123. -/
theorem test_mix :
    seen (fun t => (t.S, t.PH)) (exec .mix (during false .mix 9 0xd4bf5d30e0b452aeb84111f11e2798e5)) =
      some (0x046681e5e0cb199a48f8d37a2806264c, .ark) := by decide +kernel
/-- The example of R124. -/
theorem test_imix :
    seen (fun t => (t.S, t.PH)) (exec .imix (during true .mix 9 0x046681e5e0cb199a48f8d37a2806264c)) =
      some (0xd4bf5d30e0b452aeb84111f11e2798e5, .ark) := by decide +kernel
/-- The example of R126. -/
theorem test_store :
    seen (fun t => (t.OUT, t.DONE, t.PH, t.RND)) (exec (.store false) (during false .store 10 cipher1)) =
      some (cipher1, true, .idle, 10) := by decide +kernel
/-- R54: no instruction stands for `0010`. -/
theorem test_unreachable_code_is_refused : step (during false .invert 0 0) = .refused .unreachableController := rfl
/-- R161 has priority over an accept (R150). -/
theorem test_reset_wins :
    seen (fun t => (t.PH, t.OUT, t.RND))
      (step { blank with OUT := 7, RND := 10, pins := { rst := true, start := true, op := true, key := 0, blockIn := 0 } }) =
      some (.idle, 0, 0) := by decide +kernel
/-- `withFetchWord` at reset: the step after it runs MIX. -/
theorem test_placed_word_runs : ∃ t, step (State.reset.withFetchWord 8 0b0110) = .next t ∧ t.PH = .ark := ⟨_, rfl, rfl⟩

/-- R172: a run whose last line leaves the command at its STORE takes that edge too. -/
theorem test_run_to_its_end : seen (fun t => (t.OUT, t.commandOver, t.PH)) (runToEnd [] storing) = some (cipher1, true, .idle) := by
  decide +kernel

/-! ## The functions -/

/-- V1. -/
theorem test_encrypt_v1 : encrypt plain1 key1 = cipher1 := by decide +kernel
/-- V2: the key as DOC0 prints it (conflict C1). -/
theorem test_encrypt_v2 : encrypt plain1 0x000102030405060708090a0b0c0d0e0f = 0x89ed5e6a05ca76338135085fe21c40bd := by
  decide +kernel
/-- V5, the decryption of V1's ciphertext. -/
theorem test_decrypt_v5 : decrypt cipher1 key1 = plain1 := by decide +kernel
/-- Section 2. -/
theorem test_multiply : gf28Multiply 0x57 0x83 = 0xc1 ∧ gf28Multiply 0xff 0xff = 0x13 ∧ gf28Double 0xff = 0xe5 := by decide +kernel
/-- Section 3. -/
theorem test_tables : SBOX 0x53 = 0xed ∧ SBOX 0xff = 0x16 ∧ ISBOX 0x9a = 0x37 ∧ ISBOX 0x63 = 0x00 := by decide +kernel
/-- Section 6. -/
theorem test_word_helpers :
    rotWord 0x09cf4f3c = 0xcf4f3c09 ∧ subWord 0xcf4f3c09 = 0x8a84eb01 ∧ rconWord 9 = 0x36000000 ∧
      invMixWord 0x62636363 = 0x6d6a6e68 := by decide +kernel
/-- R155: the trace outputs of the first ARK of V1. -/
theorem test_trace :
    State.trace { during false .ark 0 plain1 with KS := expandKey key1 } =
      { valid := true, round := 0, key := key1, state := 0x193de3bea0f4e22b9ac68d2ae9f84808 } := by decide +kernel
/-- R147. -/
theorem test_wrapper_short_key : present false (List.replicate 16 0) (List.replicate 15 0) blank = .fault .invalidLength := rfl
/-- R4: byte 0 of a sequence is the most significant byte. -/
theorem test_wrapper_byte_order :
    seen (fun t => (byte t.pins.blockIn 0, byte t.pins.key 15))
      (present true ([1] ++ List.replicate 15 0) (List.replicate 15 0 ++ [2]) blank) = some (1, 2) := by decide +kernel

/-! ## Witnesses: what each statement assumes is met -/

/-- A resting core after an ENC. -/
def afterEnc : State := { during false .idle 10 cipher1 with OUT := cipher1, DONE := true, KS := expandKey key1 }

/-- A resting core after an ENC that is asked for a command, with an ENC at edge 43 after it. -/
def asked (op : Bool) : State :=
  { asking op key1 plain1 afterEnc with
    script := List.replicate 50 { rst := false, start := true, op := true, key := 1, blockIn := 2 } }

/-- The core in the middle of a DEC. -/
def inDec : State :=
  { during true .mix 5 plain1 with
    KS := invertForDecryption (expandKey key1), pins := { Pins.quiet with start := true } }

/-- A controller state that no run reaches, with reset. -/
def lost : State := { during false .invert 13 0 with pins := { Pins.quiet with rst := true, start := true } }

theorem witness_ResetEdgeResetsFromEveryState : lost.pins.rst = true ∧ lost.reachable = false := by decide

theorem witness_EncodeOfDecode : decodeCode (.accept 0b110000#6) = .ok (.load true false) ∧
    decodeCode (.uop 0b1111#4) = .ok (.store true) := by decide

theorem witness_StepRunsTheCodeInForce : (asked true).pins.rst = false ∧
    decodeEdge (edgeCode (asked true).pins.start (asked true).pins.op (asked true).OPR (asked true).PH) =
      .ok (.load true false) := by decide +kernel

theorem witness_StepRunsTheCommandOnThePorts : (asked true).pins.rst = false ∧
    decodeCommand (asked true).pins.word = .dec key1 plain1 := by decide +kernel

theorem witness_StepRunsAPlacedWord : decodeTableWord 8 0b1111 = some (.store true) := by decide

theorem witness_resting : afterEnc.Resting ∧ afterEnc.pins.start = false ∧ blank.Resting := by
  refine ⟨⟨?_, ?_⟩, ?_, ⟨?_, ?_⟩⟩ <;> decide +kernel

theorem witness_LoadTakesTheCommandOnThePorts : (asked true).Resting ∧ (asked true).pins.start = true := by
  refine ⟨⟨?_, ?_⟩, ?_⟩ <;> decide +kernel

theorem witness_BusyCoreIgnoresCommands : inDec.busy = true ∧ decodeUop inDec.uop = .ok .imix := by decide +kernel

theorem witness_BusyStepReadsNoOperands : inDec.busy = true ∧
    inDec.pins ≠ (asked false).pins ∧ inDec.pins.rst = (asked false).pins.rst := by decide +kernel

theorem witness_ExpandComputesTheSchedule :
    (during false .expand 10 0).reachable = true ∧ (during true .expand 0 0).reachable = true := by decide

theorem witness_InvertTransformsTheMiddleWords :
    (during true .invert 0 0).reachable = true ∧ (during true .invert 10 0).reachable = true := by decide

/-- Both ends of the rounds, in both directions. -/
theorem witness_ArkAddsTheRoundKey :
    (during false .ark 0 0).RND.toNat ≤ 10 ∧ (during false .ark 10 0).RND.toNat ≤ 10 ∧
    (during true .ark 10 0).RND.toNat ≤ 10 ∧ (during true .ark 0 0).PH = .ark := by decide

theorem witness_SubLooksUpEveryByte :
    (during false .sub 1 0).reachable = true ∧ (during false .sub 10 0).reachable = true ∧
    (during true .sub 9 0).reachable = true ∧ (during true .sub 0 0).reachable = true := by decide

theorem witness_ShiftRotatesTheRows :
    (during false .shift 1 0).reachable = true ∧ (during false .shift 10 0).reachable = true ∧
    (during true .shift 9 0).reachable = true ∧ (during true .shift 0 0).reachable = true := by decide

theorem witness_MixMultipliesTheColumns :
    (during false .mix 1 0).reachable = true ∧ (during false .mix 9 0).reachable = true ∧
    (during true .mix 9 0).reachable = true ∧ (during true .mix 1 0).reachable = true := by decide

theorem witness_StoreDeliversTheResult :
    storing.reachable = true ∧ storing.PH = .store ∧ (during true .store 0 0).reachable = true := by decide +kernel

theorem witness_RoundTransformationsFrame :
    (∃ t, exec .sub (during false .sub 10 0) = .next t) ∧ (∃ t, exec .isub (during true .sub 0 0) = .next t) ∧
    (∃ t, exec .shift (during false .shift 10 0) = .next t) ∧ (∃ t, exec .ishift (during true .shift 0 0) = .next t) ∧
    (∃ t, exec .mix (during false .mix 9 0) = .next t) ∧ (∃ t, exec .imix inDec = .next t) :=
  ⟨⟨_, rfl⟩, ⟨_, rfl⟩, ⟨_, rfl⟩, ⟨_, rfl⟩, ⟨_, rfl⟩, ⟨_, rfl⟩⟩

theorem witness_KeyOperationsFrame :
    (∃ t, exec (.ark false) (during false .ark 10 0) = .next t) ∧ (∃ t, exec (.ark true) (during true .ark 0 0) = .next t) ∧
    (∃ t, exec (.expand false) (during false .expand 10 0) = .next t) ∧
    (∃ t, exec (.expand true) (during true .expand 0 0) = .next t) ∧
    (∃ t, exec .invert (during true .invert 0 0) = .next t) :=
  ⟨⟨_, rfl⟩, ⟨_, rfl⟩, ⟨_, rfl⟩, ⟨_, rfl⟩, ⟨_, rfl⟩⟩

theorem witness_ControlOperationsFrame :
    (∃ t, exec (.load true false) (asked true) = .next t) ∧ (∃ t, exec (.load false true) (asking false 1 2 (during true .idle 0 0)) = .next t) ∧
    (∃ t, exec (.store false) storing = .next t) ∧ (∃ t, exec (.store true) (during true .store 0 0) = .next t) ∧
    (∃ t, exec (.idle false) afterEnc = .next t) :=
  ⟨⟨_, rfl⟩, ⟨_, rfl⟩, ⟨_, rfl⟩, ⟨_, rfl⟩, ⟨_, rfl⟩⟩

theorem witness_CommandsFrame :
    (∃ t, exec (.nop true 0 0) inDec = .next t) ∧ (∃ t, exec (.enc key1 plain1) afterEnc = .next t) ∧
    (∃ t, exec (.dec key1 plain1) storing = .next t) := ⟨⟨_, rfl⟩, ⟨_, rfl⟩, ⟨_, rfl⟩⟩

/-- A next state of an accept edge, of a STORE edge, of another edge, and of a reset edge; the premises of
OutIsWrittenOnlyByStoreAndReset, DoneIsSetByStoreOnly, DirectionIsWrittenOnlyByLoadAndReset, ControllerFollowsTheTable and
DataPathIsTheSelectedModules. -/
theorem witness_steps :
    ((asked true).accept = true ∧ (asked true).pins.rst = false ∧ ∃ t, step (asked true) = .next t) ∧
    (storing.pins.rst = false ∧ ∃ t, step storing = .next t) ∧
    (inDec.pins.rst = false ∧ ∃ t, step inDec = .next t) ∧ (∃ t, step lost = .next t) :=
  ⟨⟨rfl, rfl, _, step_reachable rfl rfl⟩, ⟨rfl, _, step_reachable rfl rfl⟩, ⟨rfl, _, step_reachable rfl rfl⟩, ⟨_, rfl⟩⟩

theorem witness_DataPathIsTheSelectedModules :
    (during false .ark 10 0).currentRoundKey = some 0 ∧ ∃ t, step (during false .ark 10 0) = .next t :=
  ⟨by decide +kernel, _, step_reachable rfl rfl⟩

theorem witness_OnlyUnreachableStatesAreRefused :
    inDec.pins.rst = false ∧ inDec.reachable = true ∧
    (during false .mix 10 0).pins.rst = false ∧ (during false .mix 10 0).reachable = false ∧
    (during true .ark 11 0).reachable = false ∧ (during false .invert 0 0).reachable = false := by decide +kernel

theorem inDec_inv : inDec.Inv where
  controller := by decide +kernel
  finished := fun h => by cases h
  schedule := by show inDec.KS = invertForDecryption (expandWords inDec.KS); decide +kernel

theorem afterEnc_inv : afterEnc.Inv where
  controller := by decide +kernel
  finished := fun _ => ⟨rfl, by decide +kernel⟩
  schedule := fun _ => by decide +kernel

theorem witness_StepKeepsTheInvariant :
    (inDec.Inv ∧ ∃ t, step inDec = .next t) ∧ (afterEnc.Inv ∧ ∃ t, step afterEnc = .next t) :=
  ⟨⟨inDec_inv, _, step_reachable rfl rfl⟩, ⟨afterEnc_inv, _, step_reachable rfl rfl⟩⟩

theorem witness_EveryRunIsSafe : inDec.Inv := inDec_inv

theorem witness_BusyAndDoneExclude : inDec.Inv ∧ ∃ t, edges 1 inDec = .next t :=
  ⟨inDec_inv, _, (edges_one inDec).trans (step_reachable rfl rfl)⟩

theorem asked_resting (op : Bool) : (asked op).Resting := by cases op <;> exact ⟨rfl, rfl⟩

theorem asked_noReset (op : Bool) (n : Nat) (hn : n ≤ 51) : (asked op).noReset n := by
  refine noReset_mono hn ?_
  show ∀ p ∈ ((asked op).pins :: (asked op).script).take 51, p.rst = false
  cases op <;> decide +kernel

theorem witness_EncComputesEncrypt :
    (asked false).Resting ∧ (asked false).presents false key1 plain1 ∧ (asked false).noReset 43 :=
  ⟨asked_resting _, rfl, asked_noReset _ _ (by omega)⟩

theorem witness_DecComputesDecrypt :
    (asked true).Resting ∧ (asked true).presents true key1 plain1 ∧ (asked true).noReset 44 :=
  ⟨asked_resting _, rfl, asked_noReset _ _ (by omega)⟩

/-- The first, a middle and the last line of the trace. -/
theorem witness_EncFollowsItsTrace :
    (encListing (asked false).RND.toNat)[0]? = some ⟨.expand false, 10⟩ ∧
    (encListing (asked false).RND.toNat)[40]? = some ⟨.ark false, 10⟩ ∧
    (encListing (asked false).RND.toNat)[41]? = some ⟨.store false, 10⟩ := by decide +kernel

theorem witness_DecFollowsItsTrace :
    (decListing (asked true).RND.toNat)[1]? = some ⟨.invert, 10⟩ ∧
    (decListing (asked true).RND.toNat)[5]? = some ⟨.imix, 9⟩ ∧
    (decListing (asked true).RND.toNat)[42]? = some ⟨.store true, 0⟩ := by decide +kernel

/-- Two cores that differ in every register, asked for a command of either direction. -/
theorem witness_ResultDependsOnTheAcceptEdgeOnly (op : Bool) :
    (asked op).presents op key1 plain1 ∧ (asking op key1 plain1 blank).presents op key1 plain1 ∧
    (asked op).Resting ∧ (asking op key1 plain1 blank).Resting ∧ (asked op).noReset (if op then 44 else 43) ∧
    (asking op key1 plain1 blank).noReset (if op then 44 else 43) ∧ (asked op).OUT ≠ blank.OUT :=
  ⟨rfl, rfl, asked_resting _, ⟨rfl, rfl⟩, asked_noReset _ _ (by cases op <;> decide),
    by cases op <;> (show ∀ p ∈ ([_] : List Pins), p.rst = false) <;> decide, by cases op <;> decide +kernel⟩

/-- For the clause on any script: nothing in progress, a command in progress. -/
theorem witness_ScriptsComputeFromAnyState :
    (afterEnc.reachable = true ∧ runScript [] afterEnc = .next afterEnc ∧ afterEnc.busy = false) ∧
    (inDec.reachable = true ∧ runScript [] inDec = .next inDec ∧ inDec.busy = true) :=
  ⟨⟨rfl, rfl, rfl⟩, rfl, rfl, rfl⟩

theorem witness_EachEdgeBringsTheEndNearer : inDec.busy = true ∧ inDec.pins.rst = false ∧ inDec.edgesLeft = 22 ∧
    ∃ t, step inDec = .next t := ⟨rfl, rfl, rfl, _, step_reachable rfl rfl⟩

/-- For the second clause, `n = 0`. -/
theorem witness_ACommandInProgressEnds :
    inDec.Inv ∧ inDec.busy = true ∧ inDec.noReset inDec.edgesLeft ∧ 0 < inDec.edgesLeft ∧ edges 0 inDec = .next inDec :=
  ⟨inDec_inv, rfl, by show ∀ p ∈ ([_] : List Pins), p.rst = false; decide, by decide +kernel, rfl⟩

theorem witness_BackToBackCommands :
    (asked false).Resting ∧ (asked false).presents false key1 plain1 ∧ (asked false).noReset 43 ∧
    (asked false).script[42]? = some { rst := false, start := true, op := true, key := 1, blockIn := 2 } ∧
    (asked true).Resting ∧ (asked true).presents true key1 plain1 ∧ (asked true).noReset 44 ∧
    (asked true).script[43]? = some { rst := false, start := true, op := true, key := 1, blockIn := 2 } :=
  ⟨asked_resting _, rfl, asked_noReset _ _ (by omega), rfl, asked_resting _, rfl, asked_noReset _ _ (by omega), rfl⟩

theorem witness_TraceShowsEachArk : ∃ t, exec (.ark false) (during false .ark 10 plain1) = .next t := ⟨_, rfl⟩

theorem witness_ElevenTraceEventsPerCommand :
    ((asked false).Resting ∧ (asked false).presents false key1 plain1 ∧ (asked false).noReset 43) ∧
    ((asked true).Resting ∧ (asked true).presents true key1 plain1 ∧ (asked true).noReset 44) :=
  ⟨witness_EncComputesEncrypt, witness_DecComputesDecrypt⟩

theorem witness_field : (0x53 : Byte) ≠ 0 ∧ gf28Multiply 0x53 0xca = 1 ∧ SBOX 0x53 = affine 0xca := by decide +kernel

theorem witness_ExpandKeyIsTheRecurrence : expandKey key1 = expandKey 0x2b7e151628aed2a6abf7158809cf4f3c := rfl

theorem witness_WrapperChecksLengthsFirst :
    (List.replicate 17 (0 : Byte)).length ≠ 16 ∧ ([] : List Byte).length ≠ 16 ∧ (List.replicate 16 (0 : Byte)).length = 16 := by
  decide

end Sys2Proof.Tests
end

section
/-! SUPPORT. The key schedule that EXPAND and INVERT leave depends on the key in words 0..3 alone (10_state.md R11). -/

namespace Sys2Proof.Machine

/-- Every word that the loop of R103 has come to depends on words 0..3 alone. -/
theorem expandLoop_getElem_congr {v w : KeySchedule} (hlow : ∀ i (_ : i < 4), v[i] = w[i]) (n : Nat) (hn : n ≤ 40)
    (i : Nat) (hi : i < n + 4) : (expandLoop v n hn)[i] = (expandLoop w n hn)[i] := by
  induction n generalizing i with
  | zero => exact hlow i hi
  | succ n ih =>
    have hword : nextWord (expandLoop v n (by omega)) ⟨n, by omega⟩ = nextWord (expandLoop w n (by omega)) ⟨n, by omega⟩ := by
      simp only [nextWord]
      rw [ih (by omega) n (by omega), ih (by omega) (n + 3) (by omega)]
    simp only [expandLoop, Vector.getElem_set, hword]
    split
    · rfl
    · exact ih (by omega) i (by omega)

/-- EXPAND's result depends on words 0..3 alone (R103, R116). -/
theorem expandWords_congr {v w : KeySchedule} (hlow : ∀ i (_ : i < 4), v[i] = w[i]) : expandWords v = expandWords w :=
  Vector.ext fun i hi => expandLoop_getElem_congr hlow 40 (Nat.le_refl 40) i hi

/-- A key schedule is the schedule of the key in its own words 0..3. -/
@[simp] theorem expandWords_expandWords (w : KeySchedule) : expandWords (expandWords w) = expandWords w :=
  expandWords_congr fun i hi => expandLoop_getElem_low w 40 (Nat.le_refl 40) i hi

/-- INVERT leaves the key in words 0..3 (R106). -/
@[simp] theorem expandWords_invertForDecryption (w : KeySchedule) : expandWords (invertForDecryption w) = expandWords w :=
  expandWords_congr fun i hi => by
    rw [invertForDecryption_getElem w i (by omega), if_neg (by omega)]

end Sys2Proof.Machine
end

section
/-! SUPPORT. The edge phase by phase, and what it does to `OUT`, `OPR` and `DONE` (R127, R12, R13, R16). -/

namespace Sys2Proof.Machine

variable {s : State}

/-! ## One equation for each phase -/

theorem edgeResult_idle_start (hp : s.PH = .idle) (hs : s.pins.start = true) :
    edgeResult s = acceptCommand s.pins.op s.pins.key s.pins.blockIn s := by
  simp [edgeResult, hp, hs]

theorem edgeResult_idle_quiet (hp : s.PH = .idle) (hs : s.pins.start = false) : edgeResult s = s := by
  simp [edgeResult, hp, hs]

theorem edgeResult_expand_enc (hp : s.PH = .expand) (ho : s.OPR = false) :
    edgeResult s = ((s.setKS (expandWords s.KS)).setPH .ark).setRND 0#4 := by
  simp [edgeResult, hp, ho]

theorem edgeResult_expand_dec (hp : s.PH = .expand) (ho : s.OPR = true) :
    edgeResult s = (s.setKS (expandWords s.KS)).setPH .invert := by
  simp [edgeResult, hp, ho]

theorem edgeResult_invert (hp : s.PH = .invert) :
    edgeResult s = ((s.setKS (invertForDecryption s.KS)).setPH .ark).setRND 10#4 := by
  simp [edgeResult, hp]

theorem edgeResult_ark {rk : Block} (hp : s.PH = .ark) (hk : s.currentRoundKey = some rk) :
    edgeResult s = arkEdge rk s := by
  simp [edgeResult, hp, hk]

theorem edgeResult_sub (hp : s.PH = .sub) :
    edgeResult s = (s.setS (if s.OPR then subbytesInverse s.S else subbytesForward s.S)).setPH .shift := by
  cases ho : s.OPR <;> simp [edgeResult, hp, ho]

theorem edgeResult_shift (hp : s.PH = .shift) :
    edgeResult s = (s.setS (if s.OPR then shiftrowsInverse s.S else shiftrowsForward s.S)).setPH (afterShift s) := by
  cases ho : s.OPR <;> simp [edgeResult, hp, ho]

theorem edgeResult_mix (hp : s.PH = .mix) :
    edgeResult s = (s.setS (if s.OPR then mixcolumnsInverse s.S else mixcolumnsForward s.S)).setPH .ark := by
  cases ho : s.OPR <;> simp [edgeResult, hp, ho]

theorem edgeResult_store (hp : s.PH = .store) :
    edgeResult s = ((s.setOUT (fromState s.S)).setDONE true).setPH .idle := by
  simp [edgeResult, hp]

/-- After the last round ARK goes to STORE (R118). -/
theorem arkEdge_last (rk : Block) (hl : lastRound s.OPR s.RND = true) :
    arkEdge rk s = (s.setS (addroundkey s.S rk)).setPH .store := if_pos hl

/-- After every other round ARK goes to SUB of the next (R118). -/
theorem arkEdge_next (rk : Block) (hl : lastRound s.OPR s.RND = false) :
    arkEdge rk s = ((s.setS (addroundkey s.S rk)).setPH .sub).setRND (nextRound s.OPR s.RND) :=
  if_neg (by simp [hl])

/-- In the controller states that runs reach, an ARK has a round key (R52, R55). -/
theorem exists_currentRoundKey (hp : s.PH = .ark) (h : s.reachable = true) : ∃ rk, s.currentRoundKey = some rk :=
  ⟨_, currentRoundKey_some (rnd_lt_of_reachable_ark hp h)⟩

/-! ## Registers with few writers -/

theorem accept_iff (hr : s.pins.rst = false) : s.accept = true ↔ s.PH = .idle ∧ s.pins.start = true := by
  simp [State.accept, hr, and_comm]

/-- Between IDLE and STORE no edge writes `OUT`, `OPR` or `DONE` (R12, R13, R16). -/
theorem edgeResult_between (h : s.reachable = true) (hi : s.PH ≠ .idle) (hs : s.PH ≠ .store) :
    (edgeResult s).OUT = s.OUT ∧ (edgeResult s).OPR = s.OPR ∧ (edgeResult s).DONE = s.DONE := by
  cases hp : s.PH with
  | idle => exact absurd hp hi
  | expand => cases ho : s.OPR <;> simp [edgeResult_expand_enc, edgeResult_expand_dec, hp, ho]
  | invert => simp [edgeResult_invert hp]
  | ark =>
    obtain ⟨rk, hk⟩ := exists_currentRoundKey hp h
    simp [edgeResult_ark hp hk]
  | sub => simp [edgeResult_sub hp]
  | shift => simp [edgeResult_shift hp]
  | mix => simp [edgeResult_mix hp]
  | store => exact absurd hp hs

/-- Only STORE writes `OUT` (R12). -/
theorem edgeResult_OUT (h : s.reachable = true) :
    (edgeResult s).OUT = if s.PH = .store then fromState s.S else s.OUT := by
  by_cases hi : s.PH = .idle
  · cases hs : s.pins.start <;> simp [edgeResult_idle_start, edgeResult_idle_quiet, hi, hs]
  by_cases hst : s.PH = .store
  · simp [edgeResult_store hst, hst]
  · obtain ⟨hout, -, -⟩ := edgeResult_between h hi hst
    simpa [hst] using hout

/-- Only LOAD writes `OPR` (R13). -/
theorem edgeResult_OPR (h : s.reachable = true) :
    (edgeResult s).OPR = if s.PH = .idle ∧ s.pins.start = true then s.pins.op else s.OPR := by
  by_cases hi : s.PH = .idle
  · cases hs : s.pins.start <;> simp [edgeResult_idle_start, edgeResult_idle_quiet, hi, hs]
  by_cases hst : s.PH = .store
  · simp [edgeResult_store hst, hst]
  · obtain ⟨-, hopr, -⟩ := edgeResult_between h hi hst
    simpa [hi] using hopr

/-- LOAD clears `DONE`, STORE sets it, nothing else writes it (R16). -/
theorem edgeResult_DONE (h : s.reachable = true) : (edgeResult s).DONE =
    if s.PH = .idle ∧ s.pins.start = true then false else if s.PH = .store then true else s.DONE := by
  by_cases hi : s.PH = .idle
  · cases hs : s.pins.start <;> simp [edgeResult_idle_start, edgeResult_idle_quiet, hi, hs]
  by_cases hst : s.PH = .store
  · simp [edgeResult_store hst, hst]
  · obtain ⟨-, -, hdone⟩ := edgeResult_between h hi hst
    simpa [hi, hst] using hdone

end Sys2Proof.Machine
end

section
/-! SUPPORT. The invariant of Safety.lean over one edge, field by field: controller, finished result, key schedule. -/

namespace Sys2Proof.Machine

variable {s : State}

/-! ## The controller (R55, R127) -/

/-- The last round of either direction is the one that STORE comes after (R118). -/
theorem reachable_store_of_lastRound : ∀ (opr : Bool) (rnd : BitVec 4),
    lastRound opr rnd = true → reachable opr .store rnd = true := by decide

/-- A round that is not the last has a next one, up in ENC and down in DEC (R118). -/
theorem reachable_sub_nextRound : ∀ (opr : Bool) (rnd : BitVec 4),
    reachable opr .ark rnd = true → lastRound opr rnd = false → reachable opr .sub (nextRound opr rnd) = true := by decide

/-- SUB and SHIFT come in the same rounds (R130, R135). -/
theorem reachable_shift_of_sub : ∀ (opr : Bool) (rnd : BitVec 4),
    reachable opr .sub rnd = true → reachable opr .shift rnd = true := by decide

/-- The last round skips MIX (R121, R122). -/
theorem reachable_afterShift : ∀ (opr : Bool) (rnd : BitVec 4), reachable opr .shift rnd = true →
    reachable opr (if lastRound opr rnd then .ark else .mix) rnd = true := by decide

/-- ARK comes in every round (R123, R124). -/
theorem reachable_ark_of_mix : ∀ (opr : Bool) (rnd : BitVec 4),
    reachable opr .mix rnd = true → reachable opr .ark rnd = true := by decide

/-- STORE leaves in `RND` the 10 or 0 of its direction's last round (R55). -/
theorem reachable_idle_of_store : ∀ (opr : Bool) (rnd : BitVec 4),
    reachable opr .store rnd = true → reachable opr .idle rnd = true := by decide

/-- The controller stays in the states of the traces (R55). -/
theorem edgeResult_reachable (h : s.reachable = true) : (edgeResult s).reachable = true := by
  have hc : reachable s.OPR s.PH s.RND = true := h
  cases hp : s.PH with
  | idle =>
    cases hs : s.pins.start with
    | false => rwa [edgeResult_idle_quiet hp hs]
    | true =>
      rw [hp] at hc
      rw [edgeResult_idle_start hp hs]
      exact hc
  | expand =>
    rw [hp] at hc
    cases ho : s.OPR with
    | false => simp [edgeResult_expand_enc hp ho, State.reachable, reachable]
    | true => simpa [edgeResult_expand_dec hp ho, State.reachable, ho, reachable] using hc
  | invert => simp [edgeResult_invert hp, State.reachable, reachable]
  | ark =>
    rw [hp] at hc
    obtain ⟨rk, hk⟩ := exists_currentRoundKey hp h
    rw [edgeResult_ark hp hk]
    cases hl : lastRound s.OPR s.RND with
    | true => rw [arkEdge_last rk hl]; exact reachable_store_of_lastRound _ _ hl
    | false => rw [arkEdge_next rk hl]; exact reachable_sub_nextRound _ _ hc hl
  | sub => rw [hp] at hc; rw [edgeResult_sub hp]; exact reachable_shift_of_sub _ _ hc
  | shift => rw [hp] at hc; rw [edgeResult_shift hp]; exact reachable_afterShift _ _ hc
  | mix => rw [hp] at hc; rw [edgeResult_mix hp]; exact reachable_ark_of_mix _ _ hc
  | store => rw [hp] at hc; rw [edgeResult_store hp]; exact reachable_idle_of_store _ _ hc

/-! ## The finished result (R16, R17, R171) -/

/-- `DONE` is 1 after an edge only if the edge was a STORE, or an idle one of a core that was done before. -/
theorem edgeResult_finished (hi : s.Inv) (hd : (edgeResult s).DONE = true) :
    (edgeResult s).PH = .idle ∧ (edgeResult s).OUT = fromState (edgeResult s).S := by
  obtain ⟨hc, hfin, -⟩ := hi
  by_cases hst : s.PH = .store
  · simp [edgeResult_store hst]
  have hd' : (s.PH = .idle → s.pins.start = false) ∧ s.DONE = true := by
    simpa [edgeResult_DONE hc, hst, imp_iff_not_or] using hd
  obtain ⟨hquiet, hdone⟩ := hd'
  obtain ⟨hp, hout⟩ := hfin hdone
  rw [edgeResult_idle_quiet hp (hquiet hp)]
  exact ⟨hp, hout⟩

/-! ## The key schedule (R11) -/

/-- The phases after the key schedule is made: the rounds and STORE. -/
def Phase.usesSchedule (ph : Phase) : Bool :=
  match ph with
  | .idle | .expand | .invert => false
  | .ark | .sub | .shift | .mix | .store => true

/-- `KS` is the schedule of the command's direction for the key in its words 0..3. -/
def State.scheduleReady (s : State) : Prop :=
  s.KS = if s.OPR then invertForDecryption (expandWords s.KS) else expandWords s.KS

/-- In the rounds and at STORE, what R11 says is that the schedule is ready. -/
theorem holdsSchedule_iff_of_usesSchedule (hu : Phase.usesSchedule s.PH = true) : s.holdsSchedule ↔ s.scheduleReady := by
  cases hp : s.PH with
  | idle | expand | invert => simp [hp, Phase.usesSchedule] at hu
  | ark | sub | shift | mix | store => cases ho : s.OPR <;> simp [State.holdsSchedule, State.scheduleReady, hp, ho]

/-- At rest, it is that the schedule of a finished command is still there. -/
theorem holdsSchedule_iff_of_idle (hp : s.PH = .idle) : s.holdsSchedule ↔ (s.DONE = true → s.scheduleReady) := by
  cases ho : s.OPR <;> simp [State.holdsSchedule, State.scheduleReady, hp, ho]

/-- The rounds and STORE leave `KS` and the direction; after them the core rests or is in such a phase again. -/
theorem edgeResult_usesSchedule (h : s.reachable = true) (hp : Phase.usesSchedule s.PH = true) :
    (edgeResult s).KS = s.KS ∧ (edgeResult s).OPR = s.OPR ∧
    ((edgeResult s).PH = .idle ∨ Phase.usesSchedule (edgeResult s).PH = true) := by
  cases hph : s.PH with
  | idle | expand | invert => simp [hph, Phase.usesSchedule] at hp
  | ark =>
    obtain ⟨rk, hk⟩ := exists_currentRoundKey hph h
    cases hl : lastRound s.OPR s.RND <;>
      simp [edgeResult_ark hph hk, arkEdge_last, arkEdge_next, hl, Phase.usesSchedule]
  | sub => simp [edgeResult_sub hph, Phase.usesSchedule]
  | shift => cases hl : lastRound s.OPR s.RND <;> simp [edgeResult_shift hph, afterShift, hl, Phase.usesSchedule]
  | mix => simp [edgeResult_mix hph, Phase.usesSchedule]
  | store => simp [edgeResult_store hph]

/-- EXPAND makes the schedule, INVERT its inverse, and the edges after them keep it (R11). -/
theorem edgeResult_holdsSchedule (h : s.reachable = true) (hk : s.holdsSchedule) : (edgeResult s).holdsSchedule := by
  by_cases hu : Phase.usesSchedule s.PH = true
  · obtain ⟨hKS, hOPR, hPH⟩ := edgeResult_usesSchedule h hu
    have hready : (edgeResult s).scheduleReady := by
      unfold State.scheduleReady
      rw [hKS, hOPR]
      exact (holdsSchedule_iff_of_usesSchedule hu).mp hk
    rcases hPH with hidle | huse
    · exact (holdsSchedule_iff_of_idle hidle).mpr fun _ => hready
    · exact (holdsSchedule_iff_of_usesSchedule huse).mpr hready
  cases hp : s.PH with
  | idle =>
    cases hs : s.pins.start with
    | false => rwa [edgeResult_idle_quiet hp hs]
    | true => simp [edgeResult_idle_start hp hs, State.holdsSchedule]
  | expand =>
    cases ho : s.OPR <;> simp [edgeResult_expand_enc, edgeResult_expand_dec, hp, ho, State.holdsSchedule]
  | invert =>
    have ho : s.OPR = true := by
      cases ho : s.OPR
      · simp [State.reachable, reachable, hp, ho] at h
      · rfl
    have hKS : s.KS = expandWords s.KS := by simpa [State.holdsSchedule, hp] using hk
    simp [edgeResult_invert hp, State.holdsSchedule, ho, ← hKS]
  | ark | sub | shift | mix | store => simp [hp, Phase.usesSchedule] at hu

/-! ## The invariant -/

/-- An edge with `rst = 0` keeps the invariant. -/
theorem edgeResult_inv (hi : s.Inv) : (edgeResult s).Inv where
  controller := edgeResult_reachable hi.controller
  finished := edgeResult_finished hi
  schedule := edgeResult_holdsSchedule hi.controller hi.schedule

/-- The environment's next sample does not touch the invariant. -/
theorem advance_inv (hi : s.Inv) : (advance s).Inv where
  controller := by simpa using hi.controller
  finished := by simpa using hi.finished
  schedule := by simpa [State.holdsSchedule] using hi.schedule

/-- In IDLE, with round 0 and nothing done, the invariant holds whatever `S` and `KS` are: the state after reset (R25). -/
theorem inv_of_reset_values (hp : s.PH = .idle) (hr : s.RND = 0#4) (hd : s.DONE = false) : s.Inv where
  controller := by simp [State.reachable, reachable, hp, hr]
  finished := by simp [hd]
  schedule := (holdsSchedule_iff_of_idle hp).mpr (by simp [hd])

end Sys2Proof.Machine
end

section
/-! The statements about the registers and the invariant (10_state.md). -/

namespace Sys2Proof.Machine

/-- Settles O33: a reset edge establishes the invariant, the arm of every phase keeps it, and the environment's sample does
not touch it. -/
theorem stepKeepsTheInvariant : Obligations.StepKeepsTheInvariant := by
  intro s t hi h
  rcases step_cases h with ⟨-, rfl⟩ | ⟨-, -, rfl⟩
  · exact advance_inv (inv_of_reset_values rfl rfl rfl)
  · exact advance_inv (edgeResult_inv hi)

/-- Settles O25: the reset edge zeroes `OUT`, and of the arms of R127 only STORE's writes it. -/
theorem outIsWrittenOnlyByStoreAndReset : Obligations.OutIsWrittenOnlyByStoreAndReset := by
  intro s t h
  refine ⟨?_, fun _ => rfl⟩
  rcases step_cases h with ⟨hr, rfl⟩ | ⟨hr, hc, rfl⟩
  · simp [hr]
  · simp [hr, edgeResult_OUT hc]

/-- Settles O26: the reset edge clears `DONE`, and of the arms of R127 only LOAD's and STORE's write it. -/
theorem doneIsSetByStoreOnly : Obligations.DoneIsSetByStoreOnly := by
  intro s t h
  rcases step_cases h with ⟨hr, rfl⟩ | ⟨hr, hc, rfl⟩
  · simp [hr]
  · simp [hr, edgeResult_DONE hc, accept_iff hr]

/-- Settles O27: the reset edge clears `OPR`, and of the arms of R127 only LOAD's writes it. -/
theorem directionIsWrittenOnlyByLoadAndReset : Obligations.DirectionIsWrittenOnlyByLoadAndReset := by
  intro s t h
  rcases step_cases h with ⟨hr, rfl⟩ | ⟨hr, hc, rfl⟩
  · simp [hr]
  · simp [hr, edgeResult_OPR hc, accept_iff hr]

/-- Settles O1: the reset state's fields are the values of R25. -/
theorem resetStateHoldsTheSpecsValues : Obligations.ResetStateHoldsTheSpecsValues :=
  ⟨State.reset_PH, State.reset_RND, State.reset_OPR, State.reset_DONE, State.reset_OUT, rfl, rfl⟩

/-- Settles O32: the reset state has the reset values, and those meet the invariant. -/
theorem resetMeetsTheInvariant : Obligations.ResetMeetsTheInvariant :=
  inv_of_reset_values State.reset_PH State.reset_RND State.reset_DONE

end Sys2Proof.Machine
end

section
/-! SUPPORT. The two substitution tables as functions on bytes (41_sbox_tables.md R70, R71). -/

namespace Sys2Proof.Machine

/-- The inverse table undoes the forward one, entry by entry (R71). -/
@[simp] theorem ISBOX_SBOX : ∀ x : Byte, ISBOX (SBOX x) = x := by decide

/-- The forward table is a permutation of the bytes (R70): it has a left inverse, and there are finitely many bytes. -/
theorem SBOX_bijective : Function.Bijective SBOX :=
  Finite.injective_iff_bijective.mp (Function.LeftInverse.injective ISBOX_SBOX)

/-- A left inverse of a permutation is a right inverse too (R71). -/
@[simp] theorem SBOX_ISBOX (x : Byte) : SBOX (ISBOX x) = x :=
  Function.LeftInverse.rightInverse_of_surjective ISBOX_SBOX SBOX_bijective.surjective x

/-- The forward table has no fixed point (R70). -/
theorem SBOX_ne_self : ∀ x : Byte, SBOX x ≠ x := by decide

/-- The forward table has no complement fixed point (R70). -/
theorem SBOX_ne_complement : ∀ x : Byte, SBOX x ≠ x ^^^ 0xFF#8 := by decide

end Sys2Proof.Machine
end

section
/-! The statement about the substitution tables (20_memory.md R32). -/

namespace Sys2Proof.Machine

/-- Settles O51: the forward table has the inverse one as left inverse by its entries, and as right inverse because it is
a permutation; that it has no fixed points is read off its entries. -/
theorem tablesAreMutualInverses : Obligations.TablesAreMutualInverses :=
  fun x => ⟨ISBOX_SBOX x, SBOX_ISBOX x, SBOX_ne_self x, SBOX_ne_complement x⟩

end Sys2Proof.Machine
end

section
/-! SUPPORT. The fields of the codes and the codes of their fields (30_encoding.md R46, R49, R50, R51). -/

namespace Sys2Proof

/-! ## Micro-operation codes and codes of an edge -/

/-- A micro-operation code is the code of its two fields (R49). -/
theorem uopCode_fields : ∀ c : BitVec 4, uopCode (c.getLsbD 3) (.ofBits (c.extractLsb' 0 3)) = c := by decide

/-- A 6-bit code is the code of its four fields (R51). -/
theorem edgeCode_fields : ∀ c : BitVec 6,
    edgeCode (c.getLsbD 5) (c.getLsbD 4) (c.getLsbD 3) (.ofBits (c.extractLsb' 0 3)) = c := by decide

/-- With `start = 0` the micro-operation code is all that the code of an edge says (R51). -/
theorem decodeUop_uopCode (op opr : Bool) (ph : Phase) :
    decodeUop (uopCode opr ph) = decodeEdge (edgeCode false op opr ph) := by
  cases ph <;> cases opr <;> cases op <;> rfl

/-- Format ACCEPT is `1od000` (R51). -/
theorem decodeAccept_edgeCode (start op opr : Bool) (ph : Phase) :
    decodeAccept (edgeCode start op opr ph) =
      if start = true ∧ ph = .idle then .ok (.load op opr) else .error .notAnAccept := by
  cases ph <;> cases start <;> cases op <;> cases opr <;> rfl

/-- What a micro-operation code decodes to has that code. -/
theorem encode_of_decodeUop {c : BitVec 4} {i : Instr} (h : decodeUop c = .ok i) : encode i = .uop c := by
  rw [← uopCode_fields c] at h ⊢
  rw [decodeUop_uopCode false, Machine.decodeEdge_edgeCode] at h
  generalize Phase.ofBits (c.extractLsb' 0 3) = ph at h ⊢
  generalize c.getLsbD 3 = opr at h ⊢
  cases ph <;> cases opr <;> cases h <;> rfl

/-- What an ACCEPT value decodes to has that code. -/
theorem encode_of_decodeAccept {c : BitVec 6} {i : Instr} (h : decodeAccept c = .ok i) : encode i = .accept c := by
  rw [← edgeCode_fields c, decodeAccept_edgeCode] at h
  split at h
  · next hc =>
    obtain ⟨hstart, hidle⟩ := hc
    cases h
    rw [encode, ← hstart, ← hidle, edgeCode_fields]
  · cases h

/-- Of the sixteen micro-operation codes, `0010` alone has no instruction (R54). -/
theorem exists_decodeUop_iff (c : BitVec 4) : (∃ i, decodeUop c = .ok i) ↔ c ≠ 0b0010#4 := by
  constructor
  · rintro ⟨i, h⟩ rfl
    cases h
  · intro hc
    rw [← uopCode_fields c] at hc ⊢
    rw [decodeUop_uopCode false, Machine.decodeEdge_edgeCode]
    generalize Phase.ofBits (c.extractLsb' 0 3) = ph at hc ⊢
    generalize c.getLsbD 3 = opr at hc ⊢
    cases ph with
    | invert =>
      cases opr with
      | false => exact absurd rfl hc
      | true => exact ⟨_, rfl⟩
    | idle | expand | ark | store => exact ⟨_, rfl⟩
    | sub | shift | mix => cases opr <;> exact ⟨_, rfl⟩

/-! ## Command words -/

/-- The bits of a command word, by fields (R46). -/
theorem commandWord_getLsbD (start op : Bool) (key block : Block) (k : Nat) :
    (commandWord start op key block).getLsbD k =
      if k < 128 then block.getLsbD k else if k < 256 then key.getLsbD (k - 128)
      else if k < 257 then op else decide (k ≤ 257) && start := by
  have hkey : k - 128 < 128 ↔ k < 256 := by omega
  have hop : k - 128 - 128 < 1 ↔ k < 257 := by omega
  have hstart : k - 128 - 128 - 1 = 0 ↔ k ≤ 257 := by omega
  show BitVec.getLsbD (w := 1 + 1 + 128 + 128) (BitVec.ofBool start ++ BitVec.ofBool op ++ key ++ block) k = _
  simp only [BitVec.getLsbD_append, BitVec.getLsbD_ofBool, hkey, hop, hstart]
  split
  · rfl
  split
  · rfl
  split
  · rw [decide_eq_true (show k - 128 - 128 = 0 by omega), Bool.true_and]
  · rfl

theorem commandKey_getLsbD (w : BitVec 258) {k : Nat} (hk : k < 128) :
    (commandKey w).getLsbD k = w.getLsbD (128 + k) := by
  rw [commandKey, BitVec.getLsbD_extractLsb', decide_eq_true hk, Bool.true_and]

theorem commandBlock_getLsbD (w : BitVec 258) {k : Nat} (hk : k < 128) :
    (commandBlock w).getLsbD k = w.getLsbD k := by
  rw [commandBlock, BitVec.getLsbD_extractLsb', decide_eq_true hk, Bool.true_and, Nat.zero_add]

@[simp] theorem commandStart_commandWord (start op : Bool) (key block : Block) :
    commandStart (commandWord start op key block) = start := by
  simp [commandStart, commandWord_getLsbD, -BitVec.getLsbD_eq_getElem]

@[simp] theorem commandOp_commandWord (start op : Bool) (key block : Block) :
    commandOp (commandWord start op key block) = op := by
  simp [commandOp, commandWord_getLsbD, -BitVec.getLsbD_eq_getElem]

@[simp] theorem commandKey_commandWord (start op : Bool) (key block : Block) :
    commandKey (commandWord start op key block) = key := by
  apply BitVec.eq_of_getLsbD_eq
  intro k hk
  rw [commandKey_getLsbD _ hk, commandWord_getLsbD, if_neg (by omega), if_pos (by omega), Nat.add_sub_cancel_left]

@[simp] theorem commandBlock_commandWord (start op : Bool) (key block : Block) :
    commandBlock (commandWord start op key block) = block := by
  apply BitVec.eq_of_getLsbD_eq
  intro k hk
  rw [commandBlock_getLsbD _ hk, commandWord_getLsbD, if_pos hk]

/-- A command word is the word of its four fields: no bit of it is left over (R46, R56). -/
theorem commandWord_fields (w : BitVec 258) :
    commandWord (commandStart w) (commandOp w) (commandKey w) (commandBlock w) = w := by
  apply BitVec.eq_of_getLsbD_eq
  intro k hk
  rw [commandWord_getLsbD]
  split
  · next hblock => exact commandBlock_getLsbD w hblock
  split
  · rw [commandKey_getLsbD w (by omega), Nat.add_sub_cancel' (by omega)]
  split
  · obtain rfl : k = 256 := by omega
    rfl
  · obtain rfl : k = 257 := by omega
    rfl

/-- The command selector (R47). -/
theorem decodeCommand_commandWord (start op : Bool) (key block : Block) :
    decodeCommand (commandWord start op key block) =
      if start then if op then .dec key block else .enc key block else .nop op key block := by
  cases start <;> cases op <;> simp [decodeCommand]

/-- What a command word decodes to has that word. -/
theorem encode_decodeCommand (w : BitVec 258) : encode (decodeCommand w) = .cmd w := by
  rw [← commandWord_fields w, decodeCommand_commandWord]
  cases commandStart w <;> cases commandOp w <;> rfl

/-! ## Numbers of the opcode table (log 6) -/

theorem toNat_lt_commandBound (w : BitVec 258) : w.toNat < commandBound := by
  have h := w.isLt
  unfold commandBound
  omega

/-- A command word is put together from the three parts of its number. -/
theorem codeOfTable_cmd (w : BitVec 258) : codeOfTable 258 w.toNat = .ok (.cmd w) := by
  have hparts :
      BitVec.ofNat 2 (w.toNat >>> 256) ++ BitVec.ofNat 128 (w.toNat >>> 128) ++ BitVec.ofNat 128 w.toNat = w := by
    apply BitVec.eq_of_getLsbD_eq
    intro k hk
    rw [BitVec.getLsbD_append, BitVec.getLsbD_append]
    simp only [BitVec.getLsbD_ofNat, Nat.testBit_shiftRight]
    split
    · next hlow => rw [decide_eq_true hlow, Bool.true_and, BitVec.testBit_toNat]
    split
    · next hmid =>
      rw [decide_eq_true hmid, Bool.true_and, BitVec.testBit_toNat, show 128 + (k - 128) = k by omega]
    · rw [decide_eq_true (show k - 128 - 128 < 2 by omega), Bool.true_and, BitVec.testBit_toNat,
        show 256 + (k - 128 - 128) = k by omega]
  rw [codeOfTable, if_pos (Nat.le_refl 258), if_pos (toNat_lt_commandBound w), hparts]

theorem codeOfTable_uop (c : BitVec 4) : codeOfTable 4 c.toNat = .ok (.uop c) := by
  simp [codeOfTable, c.isLt]

/-- An ACCEPT value has bit 5 set, so its number is none of a micro-operation code. -/
theorem codeOfTable_accept (c : BitVec 6) (h : 16 ≤ c.toNat) : codeOfTable 6 c.toNat = .ok (.accept c) := by
  have hlt : c.toNat < 64 := c.isLt
  simp [codeOfTable, hlt, Nat.not_lt.mpr h]

theorem le_edgeCode_toNat : ∀ op opr : Bool, 16 ≤ (edgeCode true op opr .idle).toNat := by decide

/-- The number of an instruction's code names that code. -/
theorem codeOfTable_encode (i : Instr) : codeOfTable (encode i).width (encode i).value = .ok (encode i) := by
  cases i with
  | nop | enc | dec => exact codeOfTable_cmd _
  | load op opr => exact codeOfTable_accept _ (le_edgeCode_toNat op opr)
  | idle | expand | invert | ark | sub | isub | shift | ishift | mix | imix | store => exact codeOfTable_uop _

/-- Decoding undoes encoding, format by format. -/
theorem decodeCode_encode (i : Instr) : decodeCode (encode i) = .ok i := by
  cases i with
  | nop | enc | dec => simp [encode, decodeCode, decodeCommand_commandWord]
  | load op opr => simp [encode, decodeCode, decodeAccept_edgeCode]
  | idle | expand | invert | ark | sub | isub | shift | ishift | mix | imix | store =>
    simp [encode, decodeCode, decodeUop_uopCode false, Machine.decodeEdge_edgeCode]

/-- Encoding undoes decoding, format by format. -/
theorem encode_of_decodeCode {c : Code} {i : Instr} (h : decodeCode c = .ok i) : encode i = c := by
  cases c with
  | cmd w =>
    cases h
    exact encode_decodeCommand w
  | uop c => exact encode_of_decodeUop h
  | accept c => exact encode_of_decodeAccept h

/-- A number of the opcode table decodes to the instruction of the code that it is read as. -/
theorem decodeTableWord_eq_some_iff {nbits w : Nat} {i : Instr} :
    decodeTableWord nbits w = some i ↔ ∃ c, codeOfTable nbits w = .ok c ∧ decodeCode c = .ok i := by
  unfold decodeTableWord decode
  cases codeOfTable nbits w with
  | error e => simp
  | ok c => cases hd : decodeCode c <;> simp [hd]

end Sys2Proof
end

section
/-! The statements about the encodings (30_encoding.md). -/

namespace Sys2Proof

/-- Settles O4: the fields of a code are read back from it, and the number of a code names it. -/
theorem decodeOfEncode : Obligations.DecodeOfEncode :=
  fun i => ⟨decodeCode_encode i, decodeTableWord_eq_some_iff.mpr ⟨_, codeOfTable_encode i, decodeCode_encode i⟩⟩

/-- Settles O5: a command word, a micro-operation code and an ACCEPT value are each the code of their fields. -/
theorem encodeOfDecode : Obligations.EncodeOfDecode := fun _ _ => encode_of_decodeCode

/-- Settles O3: each written word is a closed case of the decoder; which codes decode is read off the phases. -/
theorem writtenWordsDecode : Obligations.WrittenWordsDecode := by
  refine ⟨?_, ?_, ?_, ?_, ?_, ?_, ?_, ?_, ?_, ?_, ?_, ?_, ?_, ?_, ?_, ?_, exists_decodeUop_iff⟩
  case refine_1 | refine_2 | refine_3 => decide +kernel
  all_goals decide

end Sys2Proof
end

section
/-! SUPPORT. The edge of the command on the ports, and an instruction placed before the step (30_encoding.md R46, R51;
log 7, log 8). -/

namespace Sys2Proof.Machine

variable {s : State}

/-! ## The command on the ports -/

/-- A micro-operation whose code is in force has no guard but the reachable controller states. -/
theorem whenInForce_of_inForce {t : State} {d : Bool} {ph : Phase} (hd : s.OPR = d) (hp : s.PH = ph) :
    whenInForce s d ph t = fromReachable s t := if_pos ⟨hd, hp⟩

/-- `0010` is in force in no controller state that runs reach (R54). -/
theorem not_reachable_invert_enc (hp : s.PH = .invert) (ho : s.OPR = false) : s.reachable = false := by
  simp [State.reachable, reachable, hp, ho]

/-- While busy, the micro-operation in force is the arm of its phase (R127). -/
theorem busyEdge_eq (hb : s.PH ≠ .idle) : busyEdge s = fromReachable s (edgeResult s) := by
  cases hp : s.PH with
  | idle => exact absurd hp hb
  | expand =>
    cases ho : s.OPR <;>
      simp [busyEdge, hp, ho, execExpand, whenInForce_of_inForce ho hp, edgeResult_expand_enc, edgeResult_expand_dec]
  | invert =>
    cases ho : s.OPR with
    | false => simp [busyEdge, hp, ho, fromReachable_refused (not_reachable_invert_enc hp ho)]
    | true => simp [busyEdge, hp, ho, execInvert, whenInForce_of_inForce ho hp, edgeResult_invert hp]
  | ark =>
    cases hk : s.currentRoundKey with
    | some rk => simp [busyEdge, hp, execArk, hk, whenInForce_of_inForce rfl hp, edgeResult_ark hp hk]
    | none =>
      have hc : s.reachable = false := by
        by_contra hc
        obtain ⟨rk, hrk⟩ := exists_currentRoundKey hp (by simpa using hc)
        simp [hk] at hrk
      simp [busyEdge, hp, execArk, hk, fromReachable_refused hc]
  | sub =>
    cases ho : s.OPR <;>
      simp [busyEdge, hp, ho, execSub, execIsub, whenInForce_of_inForce ho hp, edgeResult_sub hp]
  | shift =>
    cases ho : s.OPR <;>
      simp [busyEdge, hp, ho, execShift, execIshift, whenInForce_of_inForce ho hp, edgeResult_shift hp]
  | mix =>
    cases ho : s.OPR <;>
      simp [busyEdge, hp, ho, execMix, execImix, whenInForce_of_inForce ho hp, edgeResult_mix hp]
  | store => simp [busyEdge, hp, execStore, whenInForce_of_inForce rfl hp, edgeResult_store hp]

/-- The command on the ports makes the arm of the phase: taken in IDLE, ignored in every other phase (R113 to R115). -/
theorem exec_command_on_ports (s : State) :
    exec (decodeCommand s.pins.word) s = fromReachable s (edgeResult s) := by
  rw [Pins.word, decodeCommand_commandWord]
  by_cases hp : s.PH = .idle
  · cases hs : s.pins.start with
    | false => simp [exec, execNop, hp, edgeResult_idle_quiet hp hs]
    | true => cases ho : s.pins.op <;> simp [exec, execEnc, execDec, hp, edgeResult_idle_start hp hs, ho]
  · cases s.pins.start <;> cases s.pins.op <;> simp [exec, execNop, execEnc, execDec, hp, busyEdge_eq hp]

/-- With `rst = 0` a step is the arm of the phase, in the controller states that runs reach, and refused in the others. -/
theorem step_eq_fromReachable (hr : s.pins.rst = false) :
    step s = onNext (fromReachable s (edgeResult s)) advance := by
  cases hc : s.reachable with
  | true => rw [step_reachable hr hc, fromReachable_next hc, onNext_next]
  | false => rw [step_unreachable hr hc, fromReachable_refused hc, onNext_refused]

/-! ## Placing -/

/-- Every instruction's code has a round in which runs reach it. -/
theorem reachable_roundFor (opr : Bool) (ph : Phase) (h : ph = .invert → opr = true) (rnd : BitVec 4) :
    reachable opr ph (roundFor opr ph rnd) = true := by
  unfold roundFor
  split
  · assumption
  · cases ph with
    | invert =>
      obtain rfl := h rfl
      rfl
    | idle | expand | ark | sub | shift | mix | store => cases opr <;> rfl

/-- A controller about to do a code that decodes is one that runs reach. -/
theorem inPhase_reachable (s : State) {opr : Bool} {ph : Phase} (h : ph = .invert → opr = true) :
    (s.inPhase opr ph).reachable = true := reachable_roundFor opr ph h s.RND

/-- The ports that carry a command word carry that word (R46). -/
theorem word_ofWord (w : BitVec 258) : (Pins.ofWord w).word = w := commandWord_fields w

/-- An edge whose code decodes, in a controller state that runs reach, is its instruction's, to a next state (R51). -/
theorem step_of_fetch {i : Instr} (hr : s.pins.rst = false) (hc : s.reachable = true) (hf : fetch s = .ok i) :
    ∃ t, exec i s = .next t ∧ step s = .next (advance t) := by
  have hstep : step s = onNext (exec i s) advance := by simp [step, hr, hf]
  obtain ⟨t, ht, -⟩ := onNext_cases (hstep.symm.trans (step_reachable hr hc))
  exact ⟨t, ht, by rw [hstep, ht, onNext_next]⟩

/-- Of the codes of phase INVERT only DEC's decodes (R54). -/
theorem invert_of_decodeUop {c : BitVec 4} {i : Instr} (h : decodeUop c = .ok i)
    (hp : Phase.ofBits (c.extractLsb' 0 3) = .invert) : c.getLsbD 3 = true := by
  by_contra hd
  have hc : c ≠ 0b0010#4 := (exists_decodeUop_iff c).mp ⟨i, h⟩
  rw [← uopCode_fields c, hp, Bool.eq_false_iff.mpr hd] at hc
  exact hc rfl

/-- An ACCEPT value that decodes has the phase IDLE and is the code of that edge (R51). -/
theorem idle_of_decodeAccept {c : BitVec 6} {i : Instr} (h : decodeAccept c = .ok i) :
    Phase.ofBits (c.extractLsb' 0 3) = .idle ∧ decodeEdge c = .ok i := by
  have hc := h
  unfold decodeAccept at hc
  split at hc
  · next hstart hidle => exact ⟨hidle, by rw [decodeEdge, hstart, hidle]; exact h⟩
  · cases hc

/-- A micro-operation code placed on any state is the code in force there. -/
theorem fetch_place_uop (s : State) (c : BitVec 4) : fetch (s.place (.uop c)) = decodeUop c := by
  show decodeEdge (edgeCode false s.pins.op (c.getLsbD 3) (.ofBits (c.extractLsb' 0 3))) = decodeUop c
  rw [← decodeUop_uopCode, uopCode_fields]

/-- An ACCEPT value placed on any state is the code of the coming edge. -/
theorem fetch_place_accept (s : State) (c : BitVec 6) : fetch (s.place (.accept c)) = decodeEdge c :=
  congrArg decodeEdge (edgeCode_fields c)

/-- A code that decodes, placed on any state, is what the next step runs. -/
theorem step_of_place (s : State) {c : Code} {i : Instr} (h : decodeCode c = .ok i) :
    ∃ t, exec i (s.place c) = .next t ∧ step (s.place c) = .next (advance t) := by
  cases c with
  | cmd w =>
    have hc : (s.place (.cmd w)).reachable = true := inPhase_reachable _ (by simp)
    have hw : (s.place (.cmd w)).pins.word = w := word_ofWord w
    have hexec := exec_command_on_ports (s.place (.cmd w))
    rw [hw, fromReachable_next hc] at hexec
    cases h
    exact ⟨_, hexec, step_reachable rfl hc⟩
  | uop c =>
    have hinv : Phase.ofBits (c.extractLsb' 0 3) = .invert → c.getLsbD 3 = true := invert_of_decodeUop h
    exact step_of_fetch rfl (inPhase_reachable _ hinv) ((fetch_place_uop s c).trans h)
  | accept c =>
    obtain ⟨hidle, hedge⟩ := idle_of_decodeAccept h
    exact step_of_fetch rfl (inPhase_reachable _ (by simp [hidle])) ((fetch_place_accept s c).trans hedge)

end Sys2Proof.Machine
end

section
/-! The statements about the two levels of instruction (30_encoding.md). -/

namespace Sys2Proof.Machine

/-- Settles O7: a step and the command on the ports are both the arm of the phase in force. -/
theorem stepRunsTheCommandOnThePorts : Obligations.StepRunsTheCommandOnThePorts := by
  intro s hr
  rw [step_eq_fromReachable hr, exec_command_on_ports]

/-- Settles O8: a table word that decodes is read as a code that decodes, and such a code can be placed. -/
theorem stepRunsAPlacedWord : Obligations.StepRunsAPlacedWord := by
  intro s nbits w i h
  obtain ⟨c, hc, hd⟩ := decodeTableWord_eq_some_iff.mp h
  have hplace : s.withFetchWord nbits w = s.place c := by simp [State.withFetchWord, State.placeWord, hc]
  rw [hplace]
  exact step_of_place s hd

end Sys2Proof.Machine
end

section
/-! SUPPORT. Runs without reset as iterations of one edge, and the controller over them
(45_round_controller_core.md R127, R130, R135). -/

namespace Sys2Proof.Machine

variable {s : State}

/-! ## Runs without reset -/

/-- What a step without reset makes of a state that runs reach: the arm of its phase, then the environment's sample. -/
def nextState (s : State) : State := advance (edgeResult s)

theorem step_eq_nextState (hr : s.pins.rst = false) (h : s.reachable = true) : step s = .next (nextState s) :=
  step_reachable hr h

@[simp] theorem nextState_reachable (h : s.reachable = true) : (nextState s).reachable = true := by
  rw [nextState, advance_reachable, edgeResult_reachable h]

/-- No arm touches the samples of the ports (R20). -/
theorem edgeResult_samples (s : State) : (edgeResult s).pins = s.pins ∧ (edgeResult s).script = s.script := by
  cases hp : s.PH with
  | idle => cases hs : s.pins.start <;> simp [edgeResult_idle_start, edgeResult_idle_quiet, hp, hs]
  | expand => cases ho : s.OPR <;> simp [edgeResult_expand_enc, edgeResult_expand_dec, hp, ho]
  | invert => simp [edgeResult_invert hp]
  | ark => cases hk : s.currentRoundKey <;> simp [edgeResult, hp, hk]
  | sub => simp [edgeResult_sub hp]
  | shift => simp [edgeResult_shift hp]
  | mix => simp [edgeResult_mix hp]
  | store => simp [edgeResult_store hp]

/-- What the ports carry after an edge is what the environment drives next. -/
theorem noReset_nextState {n : Nat} (hr : s.noReset (n + 1)) : (nextState s).noReset n := by
  obtain ⟨hpins, hscript⟩ := edgeResult_samples s
  refine noReset_advance ?_
  rw [State.noReset, hpins, hscript]
  exact hr

/-- A run without reset is the iteration of its edge. -/
theorem edges_eq_iterate {n : Nat} (h : s.reachable = true) (hr : s.noReset n) :
    edges n s = .next (nextState^[n] s) := by
  induction n generalizing s with
  | zero => rfl
  | succ n ih =>
    rw [edges_succ_of_next n (step_eq_nextState (noReset_here hr) h), Function.iterate_succ_apply]
    exact ih (nextState_reachable h) (noReset_nextState hr)

/-! ## The controller -/

/-- The arms of R127 are the rows of the sequencing table. -/
theorem next_controller (h : s.reachable = true) :
    s.controller.next s.pins.start s.pins.op = some (edgeResult s).controller := by
  cases hp : s.PH with
  | idle =>
    cases hs : s.pins.start with
    | false => simp [edgeResult_idle_quiet hp hs, State.controller, Controller.next, hp]
    | true => simp [edgeResult_idle_start hp hs, State.controller, Controller.next, hp]
  | expand =>
    cases ho : s.OPR <;>
      simp [edgeResult_expand_enc, edgeResult_expand_dec, State.controller, Controller.next, hp, ho]
  | invert =>
    cases ho : s.OPR with
    | false => simp [not_reachable_invert_enc hp ho] at h
    | true => simp [edgeResult_invert hp, State.controller, Controller.next, hp, ho]
  | ark =>
    obtain ⟨rk, hk⟩ := exists_currentRoundKey hp h
    rw [edgeResult_ark hp hk]
    cases ho : s.OPR <;> simp [arkEdge, State.controller, Controller.next, hp, ho, lastRound, nextRound] <;>
      split <;> simp [*]
  | sub => cases ho : s.OPR <;> simp [edgeResult_sub hp, State.controller, Controller.next, hp]
  | shift =>
    cases ho : s.OPR <;>
      simp [edgeResult_shift hp, State.controller, Controller.next, hp, ho, afterShift, lastRound] <;> split <;> rfl
  | mix => simp [edgeResult_mix hp, State.controller, Controller.next, hp]
  | store => simp [edgeResult_store hp, State.controller, Controller.next, hp]

theorem next_controller_nextState (h : s.reachable = true) :
    s.controller.next s.pins.start s.pins.op = some (nextState s).controller := by
  rw [next_controller h]
  simp [nextState, State.controller]

/-- While busy the controller does not read the command strobe (R114). -/
theorem next_of_busy {c : Controller} (hb : c.PH ≠ .idle) (start op : Bool) :
    c.next start op = c.next false false := by
  obtain ⟨opr, ph, rnd, done⟩ := c
  cases ph with
  | idle => exact absurd rfl hb
  | expand | invert | ark | sub | shift | mix | store => cases opr <;> rfl

/-- While busy the micro-operation of the edge is the one that `PH` and `OPR` name (R49, R114). -/
theorem fetch_of_busy (hb : s.PH ≠ .idle) : fetch s = decodeUop s.uop := by
  rw [fetch, State.code, State.uop, decodeUop_uopCode s.pins.op, decodeEdge_edgeCode, decodeEdge_edgeCode]
  cases hp : s.PH with
  | idle => exact absurd hp hb
  | expand | invert | ark | sub | shift | mix | store => cases s.OPR <;> rfl

/-- At rest with `start = 1` it is LOAD (R113). -/
theorem fetch_of_idle_start (hp : s.PH = .idle) (hs : s.pins.start = true) : fetch s = .ok (.load s.pins.op s.OPR) := by
  simp [fetch, State.code, decodeEdge_edgeCode, hp, hs]

/-! ## Listings -/

/-- The controller is busy with a command that is not done, and about to do the line of a listing (R59). -/
def Controller.atLine (c : Controller) (l : Listed) : Bool :=
  c.PH != .idle && decodeUop (uopCode c.OPR c.PH) == .ok l.op && c.RND.toNat == l.rnd && !c.DONE

theorem busy_of_atLine {c : Controller} {l : Listed} (h : c.atLine l = true) : c.PH ≠ .idle := by
  simp only [Controller.atLine, Bool.and_eq_true, bne_iff_ne] at h
  obtain ⟨⟨⟨hb, -⟩, -⟩, -⟩ := h
  exact hb

/-- Where the controller is after the lines of a listing, if it does them one by one. -/
def Controller.follow (c : Controller) (ls : List Listed) : Option Controller :=
  match ls with
  | [] => some c
  | l :: rest => if c.atLine l then (c.next false false).bind (·.follow rest) else none

/-- A controller that does the lines of a listing is, before each edge, at the line of that edge; and in the end it is
where the listing leads. -/
theorem atLine_of_follow {ls : List Listed} {c : Controller} (h : s.reachable = true)
    (hf : s.controller.follow ls = some c) :
    (∀ n l, ls[n]? = some l → (nextState^[n] s).controller.atLine l = true) ∧
      (nextState^[ls.length] s).controller = c := by
  induction ls generalizing s with
  | nil => exact ⟨by simp, Option.some.inj hf⟩
  | cons l rest ih =>
    obtain ⟨hl, d, hd, hrest⟩ : s.controller.atLine l = true ∧
        ∃ d, s.controller.next false false = some d ∧ d.follow rest = some c := by
      simpa [Controller.follow, Option.bind_eq_some_iff] using hf
    have hb : s.controller.PH ≠ .idle := busy_of_atLine hl
    rw [← next_of_busy hb s.pins.start s.pins.op, next_controller_nextState h] at hd
    cases hd
    obtain ⟨hlines, hend⟩ := ih (nextState_reachable h) hrest
    refine ⟨fun n l' hn => ?_, hend⟩
    cases n with
    | zero =>
      cases hn
      exact hl
    | succ n => exact hlines n l' hn

/-- At a line of a listing the coming edge does the line's micro-operation in the line's round, and `done` is 0. -/
theorem fetch_of_atLine {l : Listed} (hl : s.controller.atLine l = true) :
    fetch s = .ok l.op ∧ s.RND.toNat = l.rnd ∧ s.done = false := by
  obtain ⟨⟨⟨hb, hop⟩, hrnd⟩, hdone⟩ :
      ((s.PH ≠ .idle ∧ decodeUop s.uop = .ok l.op) ∧ s.RND.toNat = l.rnd) ∧ s.DONE = false := by
    simpa [Controller.atLine, State.controller, State.uop] using hl
  exact ⟨(fetch_of_busy hb).trans hop, hrnd, hdone⟩

/-! ## Commands -/

/-- The micro-operations of a command after its accept edge (R130, R135). -/
def commandListing (op : Bool) (left : Nat) : List Listed := if op then decListing left else encListing left

/-- The controller right after the accept edge of a command does the listing of R130 or of R135, and then rests, done. -/
theorem follow_commandListing (op : Bool) {rnd : BitVec 4} (h : rnd = 0#4 ∨ rnd = 10#4) :
    Controller.follow ⟨op, .expand, rnd, false⟩ (commandListing op rnd.toNat) =
      some ⟨op, .idle, if op then 0#4 else 10#4, true⟩ := by
  rcases h with rfl | rfl <;> cases op <;> decide

/-- A resting core holds the round that the last command ended with, or 0 from reset (R55). -/
theorem rnd_of_resting (hs : s.Resting) : s.RND = 0#4 ∨ s.RND = 10#4 := by
  obtain ⟨hp, hc⟩ := hs
  simpa [State.reachable, reachable, hp] using hc

/-- The accept edge of a command (R113). -/
theorem nextState_of_presents {op : Bool} {key block : Block} (hs : s.Resting) (hp : s.presents op key block) :
    nextState s = advance (acceptCommand op key block s) := by
  have hstart : s.pins.start = true := by rw [hp]
  rw [nextState, edgeResult_idle_start hs.1 hstart, hp]

/-- A command presented to a resting core does its listing, edge by edge (R130, R135). -/
theorem command_follows_listing {op : Bool} {key block : Block} {k : Nat} (hs : s.Resting)
    (hp : s.presents op key block) (hr : s.noReset (k + 1)) (hk : (commandListing op s.RND.toNat).length = k) :
    fetch s = .ok (.load op s.OPR) ∧
    (∀ (n : Nat) (l : Listed), (commandListing op s.RND.toNat)[n]? = some l →
      ∃ t, edges (n + 1) s = .next t ∧ fetch t = .ok l.op ∧ t.RND.toNat = l.rnd ∧ t.done = false) ∧
    ∃ t, edges (k + 1) s = .next t ∧ t.done = true := by
  have hc : s.reachable = true := hs.2
  have haccept : (nextState s).controller = ⟨op, .expand, s.RND, false⟩ := by
    simp [nextState_of_presents hs hp, State.controller]
  obtain ⟨hlines, hend⟩ := atLine_of_follow (nextState_reachable hc)
    (haccept ▸ follow_commandListing op (rnd_of_resting hs))
  refine ⟨?_, fun n l hl => ?_, _, edges_eq_iterate hc hr, ?_⟩
  · rw [fetch_of_idle_start hs.1 (by rw [hp]), hp]
  · have hn : n < k := hk ▸ (List.getElem?_eq_some_iff.mp hl).1
    exact ⟨_, edges_eq_iterate hc (noReset_mono (by omega) hr), fetch_of_atLine (hlines n l hl)⟩
  · rw [hk] at hend
    exact congrArg Controller.DONE hend

end Sys2Proof.Machine
end

section
/-! The statements about the traces of the commands (45_round_controller_core.md section 5). -/

namespace Sys2Proof.Machine

/-- Settles O38: the controller of an ENC does the 42 lines of R130 after LOAD, and is done after the last. -/
theorem encFollowsItsTrace : Obligations.EncFollowsItsTrace :=
  fun _ _ _ hs hp hr => command_follows_listing hs hp hr rfl

/-- Settles O39: the controller of a DEC does the 43 lines of R135 after LOAD, and is done after the last. -/
theorem decFollowsItsTrace : Obligations.DecFollowsItsTrace :=
  fun _ _ _ hs hp hr => command_follows_listing hs hp hr rfl

end Sys2Proof.Machine
end

section
/-! SUPPORT. What a command in progress will deliver, and when: a value that every edge keeps, and a count that every edge
lowers by one (45_round_controller_core.md R128, R133, R137; 70_reset_and_hazards.md R172). -/

namespace Sys2Proof.Machine

variable {s : State}

/-! ## The result of the command in progress -/

/-- The round that a value of `RND` names. -/
def roundIndex (rnd : BitVec 4) : Fin 11 := Fin.ofNat 11 rnd.toNat

/-- The rounds that the command still does after the ARK of round `rnd`: up to 10 in ENC, down to 0 in DEC. -/
def roundsAfter (opr : Bool) (rnd : BitVec 4) : List (Fin 11) :=
  if opr then ((List.finRange 11).take rnd.toNat).reverse else (List.finRange 11).drop (rnd.toNat + 1)

/-- One round of the direction (R128, R133). -/
def cipherRound (opr : Bool) (w : KeySchedule) (v : Block) (r : Fin 11) : Block :=
  if opr then decryptRound w v r else encryptRound w v r

/-- The schedule that the rounds of the direction use (R128, R133), made from words 0..3. -/
def commandSchedule (opr : Bool) (w : KeySchedule) : KeySchedule :=
  if opr then invertForDecryption (expandWords w) else expandWords w

/-- The result, from the state `v` before the ARK of round `rnd`. -/
def resultFromArk (opr : Bool) (w : KeySchedule) (rnd : BitVec 4) (v : Block) : Block :=
  fromState ((roundsAfter opr rnd).foldl (cipherRound opr w) (addroundkey v (roundKey w (roundIndex rnd))))

/-- The result, from the state `v` before the MIX of round `rnd`. -/
def resultFromMix (opr : Bool) (w : KeySchedule) (rnd : BitVec 4) (v : Block) : Block :=
  resultFromArk opr w rnd (if opr then mixcolumnsInverse v else mixcolumnsForward v)

/-- The result, from the state `v` before the SHIFT of round `rnd`. -/
def resultFromShift (opr : Bool) (w : KeySchedule) (rnd : BitVec 4) (v : Block) : Block :=
  let t := if opr then shiftrowsInverse v else shiftrowsForward v
  resultFromArk opr w rnd
    (if lastRound opr rnd then t else if opr then mixcolumnsInverse t else mixcolumnsForward t)

/-- The result, from the state `v` before the SUB of round `rnd`. -/
def resultFromSub (opr : Bool) (w : KeySchedule) (rnd : BitVec 4) (v : Block) : Block :=
  resultFromShift opr w rnd (if opr then subbytesInverse v else subbytesForward v)

/-- The round of the first ARK (R116, R117). -/
def firstRound (opr : Bool) : BitVec 4 := if opr then 10#4 else 0#4

/-- What `OUT` holds when the command in progress is over, read off the registers; in IDLE, `OUT`. -/
def State.result (s : State) : Block :=
  match s.PH with
  | .idle => s.OUT
  | .expand => resultFromArk s.OPR (commandSchedule s.OPR s.KS) (firstRound s.OPR) s.S
  | .invert => resultFromArk s.OPR (invertForDecryption s.KS) (firstRound s.OPR) s.S
  | .ark => resultFromArk s.OPR s.KS s.RND s.S
  | .sub => resultFromSub s.OPR s.KS s.RND s.S
  | .shift => resultFromShift s.OPR s.KS s.RND s.S
  | .mix => resultFromMix s.OPR s.KS s.RND s.S
  | .store => fromState s.S

/-- No round is left after the last. -/
theorem roundsAfter_last : ∀ (opr : Bool) (rnd : BitVec 4),
    reachable opr .ark rnd = true → lastRound opr rnd = true → roundsAfter opr rnd = [] := by decide

/-- After the ARK of another round the next one is left, and what is left after it. -/
theorem roundsAfter_next : ∀ (opr : Bool) (rnd : BitVec 4), reachable opr .ark rnd = true → lastRound opr rnd = false →
    roundsAfter opr rnd = roundIndex (nextRound opr rnd) :: roundsAfter opr (nextRound opr rnd) := by decide

/-- The last round is round 10 in ENC and round 0 in DEC (R128, R133). -/
theorem lastRound_iff_roundIndex : ∀ (opr : Bool) (rnd : BitVec 4), reachable opr .sub rnd = true →
    (lastRound opr rnd = true ↔ roundIndex rnd = if opr then 0 else 10) := by decide

/-- A round of R128 or R133 is its SUB, its SHIFT, its MIX but in the last round, and its ARK. -/
theorem resultFromSub_eq_round {opr : Bool} {rnd : BitVec 4} (h : reachable opr .sub rnd = true) (w : KeySchedule)
    (v : Block) : resultFromSub opr w rnd v =
      fromState ((roundsAfter opr rnd).foldl (cipherRound opr w) (cipherRound opr w v (roundIndex rnd))) := by
  have hl := lastRound_iff_roundIndex opr rnd h
  cases opr <;>
    simp [resultFromSub, resultFromShift, resultFromArk, cipherRound, encryptRound, decryptRound, hl]

/-- The result after the ARK of a round that is not the last. -/
theorem resultFromArk_next {opr : Bool} {rnd : BitVec 4} (h : reachable opr .ark rnd = true)
    (hl : lastRound opr rnd = false) (w : KeySchedule) (v : Block) : resultFromArk opr w rnd v =
      resultFromSub opr w (nextRound opr rnd) (addroundkey v (roundKey w (roundIndex rnd))) := by
  rw [resultFromSub_eq_round (reachable_sub_nextRound opr rnd h hl), resultFromArk, roundsAfter_next opr rnd h hl,
    List.foldl_cons]

theorem resultFromArk_last {opr : Bool} {rnd : BitVec 4} (h : reachable opr .ark rnd = true)
    (hl : lastRound opr rnd = true) (w : KeySchedule) (v : Block) : resultFromArk opr w rnd v =
      fromState (addroundkey v (roundKey w (roundIndex rnd))) := by
  rw [resultFromArk, roundsAfter_last opr rnd h hl, List.foldl_nil]

theorem currentRoundKey_roundIndex (hp : s.PH = .ark) (h : s.reachable = true) :
    s.currentRoundKey = some (roundKey s.KS (roundIndex s.RND)) := by
  have hlt := rnd_lt_of_reachable_ark hp h
  rw [currentRoundKey_some hlt]
  congr 3
  exact (Nat.mod_eq_of_lt hlt).symm

/-- Every edge of a command in progress keeps its result; STORE writes it to `OUT`. -/
theorem edgeResult_result (h : s.reachable = true) (hb : s.PH ≠ .idle) : (edgeResult s).result = s.result := by
  have hc : reachable s.OPR s.PH s.RND = true := h
  cases hp : s.PH with
  | idle => exact absurd hp hb
  | expand =>
    cases ho : s.OPR <;>
      simp [edgeResult_expand_enc, edgeResult_expand_dec, hp, ho, State.result, commandSchedule, firstRound]
  | invert =>
    cases ho : s.OPR with
    | false => simp [not_reachable_invert_enc hp ho] at h
    | true => simp [edgeResult_invert hp, State.result, hp, ho, firstRound]
  | ark =>
    rw [hp] at hc
    rw [edgeResult_ark hp (currentRoundKey_roundIndex hp h)]
    cases hl : lastRound s.OPR s.RND with
    | true => simp [arkEdge_last _ hl, State.result, hp, resultFromArk_last hc hl]
    | false => simp [arkEdge_next _ hl, State.result, hp, resultFromArk_next hc hl]
  | sub => simp [edgeResult_sub hp, State.result, hp, resultFromSub]
  | shift =>
    cases hl : lastRound s.OPR s.RND <;>
      simp [edgeResult_shift hp, State.result, hp, resultFromShift, resultFromMix, afterShift, hl]
  | mix => simp [edgeResult_mix hp, State.result, hp, resultFromMix]
  | store => simp [edgeResult_store hp, State.result, hp]

/-- With a command taken, the result to come is that of R128 or R133. -/
theorem acceptCommand_result (op : Bool) (key block : Block) (s : State) :
    (acceptCommand op key block s).result = if op then decrypt block key else encrypt block key := by
  have hschedule : expandWords (seedWords key s.KS) = expandKey key := expandWords_congr fun i hi => by
    rw [seedWords_getElem_low key s.KS ⟨i, hi⟩, seedWords_getElem_low key _ ⟨i, hi⟩]
  have henc : roundsAfter false 0#4 = [1, 2, 3, 4, 5, 6, 7, 8, 9, 10] := by decide
  have hdec : roundsAfter true 10#4 = [9, 8, 7, 6, 5, 4, 3, 2, 1, 0] := by decide
  have hfirst : roundIndex 0#4 = 0 ∧ roundIndex 10#4 = 10 := by decide
  have hround : cipherRound false = encryptRound ∧ cipherRound true = decryptRound := ⟨rfl, rfl⟩
  cases op <;>
    simp [State.result, resultFromArk, commandSchedule, firstRound, hschedule, henc, hdec, hfirst, hround, encrypt,
      decrypt]

/-! ## The edges that the command in progress still takes -/

/-- In the sequencing table each row of a command in progress has one edge less left than the row before (R130, R135). -/
theorem edgesLeft_next (opr : Bool) (ph : Phase) (rnd : BitVec 4) (done : Bool) (hb : ph ≠ .idle)
    (h : reachable opr ph rnd = true) :
    (Controller.next ⟨opr, ph, rnd, done⟩ false false).map (fun c => edgesLeft c.OPR c.PH c.RND + 1) =
      some (edgesLeft opr ph rnd) := by
  cases ph with
  | idle => exact absurd rfl hb
  | expand | invert | ark | sub | shift | mix | store => revert opr rnd done; decide

/-- While a command is in progress each edge brings its end nearer by one (R137, R176). -/
theorem edgesLeft_edgeResult (h : s.reachable = true) (hb : s.PH ≠ .idle) :
    (edgeResult s).edgesLeft + 1 = s.edgesLeft := by
  have hc : s.controller.PH ≠ .idle := hb
  have hnext := next_controller h
  rw [next_of_busy hc] at hnext
  have hleft := edgesLeft_next s.OPR s.PH s.RND s.DONE hb h
  rw [← State.controller, hnext] at hleft
  exact Option.some.inj hleft

/-- Only STORE ends a command (R126). -/
theorem edgeResult_busy (h : s.reachable = true) (hb : s.PH ≠ .idle) (hst : s.PH ≠ .store) :
    (edgeResult s).PH ≠ .idle := by
  cases hp : s.PH with
  | idle => exact absurd hp hb
  | expand => cases ho : s.OPR <;> simp [edgeResult_expand_enc, edgeResult_expand_dec, hp, ho]
  | invert => simp [edgeResult_invert hp]
  | ark =>
    obtain ⟨rk, hk⟩ := exists_currentRoundKey hp h
    cases hl : lastRound s.OPR s.RND <;> simp [edgeResult_ark hp hk, arkEdge_last, arkEdge_next, hl]
  | sub => simp [edgeResult_sub hp]
  | shift => cases hl : lastRound s.OPR s.RND <;> simp [edgeResult_shift hp, afterShift, hl]
  | mix => simp [edgeResult_mix hp]
  | store => exact absurd hp hst

@[simp] theorem advance_result (s : State) : (advance s).result = s.result := by simp [State.result]

@[simp] theorem advance_edgesLeft (s : State) : (advance s).edgesLeft = s.edgesLeft := by simp [State.edgesLeft]

/-- The last command is over: the core rests, `DONE` is 1, and `OUT` holds `v`, which is the state it left. -/
def State.OverWith (s : State) (v : Block) : Prop :=
  s.PH = .idle ∧ s.DONE = true ∧ s.OUT = v ∧ s.OUT = fromState s.S

/-- After the edges that it has left, a command in progress is over, with its result in `OUT` (R172). -/
theorem iterate_edgesLeft (h : s.reachable = true) (hb : s.PH ≠ .idle) :
    (nextState^[s.edgesLeft] s).OverWith s.result := by
  generalize hn : s.edgesLeft = n
  have hleft := edgesLeft_edgeResult h hb
  induction n generalizing s with
  | zero => omega
  | succ n ih =>
    rw [Function.iterate_succ_apply]
    by_cases hst : s.PH = .store
    · obtain rfl : n = 0 := by simpa [State.edgesLeft, edgesLeft, hst] using hn.symm
      simp [State.OverWith, nextState, edgeResult_store hst, State.result, hst]
    · have hb' : (nextState s).PH ≠ .idle := by simpa [nextState] using edgeResult_busy h hb hst
      have hres : (nextState s).result = s.result := by simp [nextState, edgeResult_result h hb]
      rw [← hres]
      have h' := nextState_reachable h
      have hn' : (nextState s).edgesLeft = n := by
        simp only [nextState, advance_edgesLeft]
        omega
      exact ih h' hb' hn' (edgesLeft_edgeResult h' hb')

end Sys2Proof.Machine
end

section
/-! SUPPORT. Runs of scripts (30_encoding.md R58; 70_reset_and_hazards.md R164, R172). -/

namespace Sys2Proof.Machine

variable {s : State}

/-! ## Driving the ports touches no register -/

@[simp] theorem drive_S (s : State) (ps : List Pins) : (s.drive ps).S = s.S := by cases ps <;> rfl
@[simp] theorem drive_KS (s : State) (ps : List Pins) : (s.drive ps).KS = s.KS := by cases ps <;> rfl
@[simp] theorem drive_OUT (s : State) (ps : List Pins) : (s.drive ps).OUT = s.OUT := by cases ps <;> rfl
@[simp] theorem drive_OPR (s : State) (ps : List Pins) : (s.drive ps).OPR = s.OPR := by cases ps <;> rfl
@[simp] theorem drive_PH (s : State) (ps : List Pins) : (s.drive ps).PH = s.PH := by cases ps <;> rfl
@[simp] theorem drive_RND (s : State) (ps : List Pins) : (s.drive ps).RND = s.RND := by cases ps <;> rfl

@[simp] theorem drive_reachable (s : State) (ps : List Pins) : (s.drive ps).reachable = s.reachable := by
  simp [State.reachable]

@[simp] theorem drive_edgesLeft (s : State) (ps : List Pins) : (s.drive ps).edgesLeft = s.edgesLeft := by
  simp [State.edgesLeft]

@[simp] theorem drive_result (s : State) (ps : List Pins) : (s.drive ps).result = s.result := by simp [State.result]

/-- Samples without reset make as many edges without reset. -/
theorem drive_noReset (s : State) {ps : List Pins} (hps : ps ≠ []) (hr : ∀ p ∈ ps, p.rst = false) :
    (s.drive ps).noReset ps.length := by
  cases ps with
  | nil => exact absurd rfl hps
  | cons p rest => exact fun q hq => hr q (List.mem_of_mem_take hq)

/-! ## Lines -/

/-- Every step of a state that runs reach goes on to such a state, with reset or without (R55, R161). -/
theorem step_keeps_reachable (h : s.reachable = true) : ∃ t, step s = .next t ∧ t.reachable = true := by
  cases hr : s.pins.rst with
  | false => exact ⟨_, step_eq_nextState hr h, nextState_reachable h⟩
  | true => exact ⟨advance (resetEdge s), by simp [step, hr], by simp [State.reachable, reachable]⟩

theorem edges_keep_reachable (n : Nat) (h : s.reachable = true) :
    ∃ t, edges n s = .next t ∧ t.reachable = true := by
  induction n generalizing s with
  | zero => exact ⟨s, rfl, h⟩
  | succ n ih =>
    obtain ⟨t, hstep, ht⟩ := step_keeps_reachable h
    rw [edges_succ_of_next n hstep]
    exact ih ht

/-- From a state that runs reach, every script runs to such a state. -/
theorem runScript_keeps_reachable (ls : List ScriptLine) (h : s.reachable = true) :
    ∃ t, runScript ls s = .next t ∧ t.reachable = true := by
  induction ls generalizing s with
  | nil => exact ⟨s, rfl, h⟩
  | cons l rest ih =>
    obtain ⟨t, hline, ht⟩ : ∃ t, runLine l s = .next t ∧ t.reachable = true :=
      edges_keep_reachable _ (by simpa using h)
    simpa [runScript, hline] using ih ht

/-- `WAIT` takes a command in progress to its end (R58, R172). -/
theorem runLine_wait_of_busy (h : s.reachable = true) (hb : s.PH ≠ .idle) :
    ∃ t, runLine .wait s = .next t ∧ t.OverWith s.result := by
  have hlen : (samples .wait s).length = s.edgesLeft := List.length_replicate
  have hpos : 0 < s.edgesLeft := by
    have hleft := edgesLeft_edgeResult h hb
    omega
  have hquiet : ∀ p ∈ samples .wait s, p.rst = false := fun p hp => by
    rw [List.eq_of_mem_replicate hp]
    rfl
  have hr := drive_noReset s (List.ne_nil_of_length_pos (hlen ▸ hpos)) hquiet
  refine ⟨_, edges_eq_iterate (by simpa using h) hr, ?_⟩
  rw [hlen]
  simpa using iterate_edgesLeft (s := s.drive (samples .wait s)) (by simpa using h) (by simpa using hb)

/-- `RESET` leaves a resting core, whatever there was before (R161, R164). -/
theorem runLine_reset (s : State) : ∃ t, runLine .reset s = .next t ∧ t.Resting :=
  ⟨_, edges_one _, by simp, by simp [State.reachable, reachable]⟩

/-- The line of a script that gives a command (R58). -/
def commandLine (op : Bool) (key block : Block) : ScriptLine := if op then .dec key block else .enc key block

/-- A resting core takes the command of a line, and is then busy with it (R113). -/
theorem runLine_command (op : Bool) (key block : Block) (hs : s.Resting) :
    ∃ t, runLine (commandLine op key block) s = .next t ∧ t.reachable = true ∧ t.PH ≠ .idle ∧
      t.result = if op then decrypt block key else encrypt block key := by
  obtain ⟨p, hsamples, hp⟩ :
      ∃ p, samples (commandLine op key block) s = [p] ∧ (s.drive [p]).presents op key block := by
    cases op <;> exact ⟨_, rfl, rfl⟩
  have hrest : (s.drive [p]).Resting := ⟨by simpa using hs.1, by simpa using hs.2⟩
  have hrst : (s.drive [p]).pins.rst = false := by rw [hp]
  refine ⟨nextState (s.drive [p]), ?_, nextState_reachable hrest.2, ?_, ?_⟩
  · rw [runLine, hsamples]
    exact (edges_one _).trans (step_eq_nextState hrst hrest.2)
  · simp [nextState_of_presents hrest hp]
  · rw [nextState_of_presents hrest hp, advance_result, acceptCommand_result]

/-- `RESET`, a command and `WAIT` compute the command's function from any state at all (R58, R164). -/
theorem runScript_reset_command_wait (op : Bool) (s : State) (key block : Block) :
    ∃ t, runScript [.reset, commandLine op key block, .wait] s = .next t ∧
      t.OverWith (if op then decrypt block key else encrypt block key) := by
  obtain ⟨t, hreset, ht⟩ := runLine_reset s
  obtain ⟨u, hcommand, hu, hb, hres⟩ := runLine_command op key block ht
  obtain ⟨v, hwait, hv⟩ := runLine_wait_of_busy hu hb
  exact ⟨v, by simp [runScript, hreset, hcommand, hwait], hres ▸ hv⟩

end Sys2Proof.Machine
end

section
/-! The statement about command scripts (30_encoding.md R58). -/

namespace Sys2Proof.Machine

/-- Settles O44: a reset makes the core rest from any state, a command then has its function as the result to come, and
every run of a script is in a state that runs reach, from where `WAIT` takes the command in progress to its end. -/
theorem scriptsComputeFromAnyState : Obligations.ScriptsComputeFromAnyState := by
  refine ⟨fun s key block => ?_, fun s ls h => ?_⟩
  · obtain ⟨t, ht, hidle, hdone, hout, -⟩ := runScript_reset_command_wait false s key block
    obtain ⟨u, hu, hidle', hdone', hout', -⟩ := runScript_reset_command_wait true s key block
    exact ⟨⟨t, ht, hout, hdone⟩, ⟨u, hu, hout', hdone'⟩,
      ⟨t, ht, hout, by simp [State.commandOver, hidle, hdone]⟩,
      ⟨u, hu, hout', by simp [State.commandOver, hidle', hdone']⟩⟩
  · obtain ⟨u, hu, hc⟩ := runScript_keeps_reachable ls h
    cases hb : u.busy with
    | false =>
      have hp : u.PH = .idle := by simpa [State.busy] using hb
      exact ⟨u, u, hu, runToEnd_of_idle hu hb, hp, fun _ => rfl, by simp [hb]⟩
    | true =>
      obtain ⟨t, hwait, hidle, hdone, -, hout⟩ := runLine_wait_of_busy hc (by simpa [State.busy] using hb)
      exact ⟨u, t, hu, (runToEnd_of_next hu).trans hwait, hidle, by simp [hb],
        fun _ => ⟨by simp [State.commandOver, hidle, hdone], hout⟩⟩

end Sys2Proof.Machine
end

section
/-! SUPPORT. Functions that carry XOR to XOR: the bytes are the polynomials over GF(2) of degree below 8, XOR is their sum
and the bytes `x^k` a basis (40_gf28.md R64). -/

namespace Sys2Proof.Machine

/-- The polynomial `x^k` as a byte (R64). -/
def xPow (k : Fin 8) : Byte := BitVec.twoPow 8 k

/-- Every byte is the sum of the `x^k` over its set bits (R64). -/
theorem byte_eq_sum_xPow : ∀ a : Byte,
    a = (List.finRange 8).foldr (fun k r => if a.getLsbD k.val then xPow k ^^^ r else r) 0#8 := by decide

/-- What holds of zero and of every `x^k`, and of a sum when of its terms, holds of every byte. -/
theorem byte_xor_induction {P : Byte → Prop} (hzero : P 0#8) (hpow : ∀ k, P (xPow k))
    (hxor : ∀ a b, P a → P b → P (a ^^^ b)) (a : Byte) : P a := by
  rw [byte_eq_sum_xPow a]
  refine List.foldrRecOn _ _ hzero fun r hr k _ => ?_
  split
  · exact hxor _ _ (hpow k) hr
  · exact hr

/-- `f` carries XOR to XOR: it is linear over GF(2). -/
def XorLinear {v w : Nat} (f : BitVec v → BitVec w) : Prop := ∀ a b, f (a ^^^ b) = f a ^^^ f b

/-- `f` is linear over GF(2) in each operand. -/
def XorBilinear {w : Nat} (f : Byte → Byte → BitVec w) : Prop :=
  (∀ b, XorLinear (f · b)) ∧ ∀ a, XorLinear (f a)

section
variable {v w : Nat}

theorem XorLinear.map_zero {f : BitVec v → BitVec w} (hf : XorLinear f) : f 0#v = 0#w := by
  simpa using hf 0#v 0#v

theorem XorLinear.comp {u : Nat} {g : BitVec v → BitVec w} {f : BitVec u → BitVec v} (hg : XorLinear g)
    (hf : XorLinear f) : XorLinear (g ∘ f) :=
  fun a b => (congrArg g (hf a b)).trans (hg _ _)

/-- Two linear functions of a byte are equal if they agree on every `x^k`. -/
theorem XorLinear.eq_of_xPow {f g : Byte → BitVec w} (hf : XorLinear f) (hg : XorLinear g)
    (h : ∀ k, f (xPow k) = g (xPow k)) (a : Byte) : f a = g a := by
  refine byte_xor_induction (P := fun a => f a = g a) ?_ h (fun a b ha hb => ?_) a
  · rw [hf.map_zero, hg.map_zero]
  · rw [hf, hg, ha, hb]

theorem XorBilinear.swap {f : Byte → Byte → BitVec w} (hf : XorBilinear f) : XorBilinear fun a b => f b a :=
  ⟨hf.2, hf.1⟩

theorem XorBilinear.comp {g : BitVec v → BitVec w} {f : Byte → Byte → BitVec v} (hg : XorLinear g)
    (hf : XorBilinear f) : XorBilinear fun a b => g (f a b) :=
  ⟨fun b => hg.comp (hf.1 b), fun a => hg.comp (hf.2 a)⟩

/-- Two bilinear functions are equal if they agree on every pair `x^i`, `x^j`. -/
theorem XorBilinear.eq_of_xPow {f g : Byte → Byte → BitVec w} (hf : XorBilinear f) (hg : XorBilinear g)
    (h : ∀ i j, f (xPow i) (xPow j) = g (xPow i) (xPow j)) (a b : Byte) : f a b = g a b :=
  (hf.1 b).eq_of_xPow (hg.1 b) (fun i => (hf.2 (xPow i)).eq_of_xPow (hg.2 (xPow i)) (h i) b) a

/-! ## The conditional XOR, of which `double`, `multiply` and the polynomial forms are made -/

/-- A conditional XOR is linear in its two words. -/
theorem ite_xor_words (c : Bool) (p q a b : BitVec w) :
    (if c then p ^^^ q ^^^ (a ^^^ b) else p ^^^ q) = (if c then p ^^^ a else p) ^^^ (if c then q ^^^ b else q) := by
  cases c
  · rfl
  · simp only [if_true]; ac_rfl

/-- A conditional XOR is linear in its first word and its condition. -/
theorem ite_xor_condition (c d : Bool) (p q a : BitVec w) :
    (if c ^^ d then p ^^^ q ^^^ a else p ^^^ q) = (if c then p ^^^ a else p) ^^^ (if d then q ^^^ a else q) := by
  cases c <;> cases d <;> simp [BitVec.xor_assoc, BitVec.xor_comm a]

end

end Sys2Proof.Machine
end

section
/-! SUPPORT. `gf28_double`, `gf28_multiply` and the polynomial product are linear over GF(2) (40_gf28.md R60 to R62). -/

namespace Sys2Proof.Machine

theorem gf28Double_xorLinear : XorLinear gf28Double := fun a b => by
  simpa [gf28Double, BitVec.shiftLeft_xor_distrib] using
    ite_xor_condition (a.getLsbD 7) (b.getLsbD 7) (a <<< 1) (b <<< 1) 0x1B#8

/-- The loop is linear in its product and first operand together. -/
theorem multiplyLoop_xor_left (n : Nat) (p q a b c : Byte) :
    multiplyLoop n (p ^^^ q) (a ^^^ b) c = multiplyLoop n p a c ^^^ multiplyLoop n q b c := by
  induction n generalizing p q a b c with
  | zero => rfl
  | succ n ih => rw [multiplyLoop, ite_xor_words, gf28Double_xorLinear, ih]; rfl

/-- The loop is linear in its product and second operand together. -/
theorem multiplyLoop_xor_right (n : Nat) (p q a b c : Byte) :
    multiplyLoop n (p ^^^ q) a (b ^^^ c) = multiplyLoop n p a b ^^^ multiplyLoop n q a c := by
  induction n generalizing p q a b c with
  | zero => rfl
  | succ n ih => rw [multiplyLoop, BitVec.getLsbD_xor, ite_xor_condition, BitVec.ushiftRight_xor_distrib, ih]; rfl

theorem gf28Multiply_xorBilinear : XorBilinear gf28Multiply :=
  ⟨fun c a b => multiplyLoop_xor_left 8 0#8 0#8 a b c, fun a b c => multiplyLoop_xor_right 8 0#8 0#8 a b c⟩

/-- With no set bit left in its second operand the loop keeps its product (R61). -/
@[simp] theorem multiplyLoop_zero_right (n : Nat) (p a : Byte) : multiplyLoop n p a 0#8 = p := by
  induction n generalizing a with
  | zero => rfl
  | succ n ih => simp [multiplyLoop, ih]

@[simp] theorem gf28Multiply_zero (a : Byte) : gf28Multiply a 0#8 = 0#8 := multiplyLoop_zero_right 8 0#8 a

@[simp] theorem gf28Multiply_one (a : Byte) : gf28Multiply a 1#8 = a :=
  (multiplyLoop_zero_right 7 (0#8 ^^^ a) (gf28Double a)).trans BitVec.zero_xor

theorem gf28Multiply_comm : ∀ a b : Byte, gf28Multiply a b = gf28Multiply b a :=
  gf28Multiply_xorBilinear.eq_of_xPow gf28Multiply_xorBilinear.swap (by decide)

theorem gf28Multiply_xor (a b c : Byte) : gf28Multiply a (b ^^^ c) = gf28Multiply a b ^^^ gf28Multiply a c :=
  gf28Multiply_xorBilinear.2 a b c

/-! ## The polynomial form (R62) -/

theorem polyProduct_xorBilinear : XorBilinear polyProduct where
  left c a b := by
    refine List.foldl_hom₂ _ (· ^^^ ·) _ _ _ 0#15 0#15 fun p q k => ?_
    simp [BitVec.shiftLeft_xor_distrib, ite_xor_words]
  right a b c := by
    refine List.foldl_hom₂ _ (· ^^^ ·) _ _ _ 0#15 0#15 fun p q k => ?_
    rw [BitVec.getLsbD_xor, ite_xor_condition]

theorem polyReduce_xorLinear : XorLinear polyReduce := fun p q => by
  unfold polyReduce
  rw [List.foldl_hom₂ _ (· ^^^ ·) _ _ _ p q fun p q k => by rw [BitVec.getLsbD_xor, ite_xor_condition]]
  exact BitVec.setWidth_xor

theorem gf28Multiply_eq_polyReduce : ∀ a b : Byte, gf28Multiply a b = polyReduce (polyProduct a b) :=
  gf28Multiply_xorBilinear.eq_of_xPow (polyProduct_xorBilinear.comp polyReduce_xorLinear) (by decide)

end Sys2Proof.Machine
end

section
/-! The statements about `gf28_multiply` (40_gf28.md R62, R63). -/

namespace Sys2Proof.Machine

/-- Settles O48: the loop is linear in each operand, so the product is distributive, and commutative because it is so on
the powers of `x`; a zero and a one as second operand are read off the loop. -/
theorem multiplyLaws : Obligations.MultiplyLaws :=
  fun a b c => ⟨gf28Multiply_one a, gf28Multiply_zero a, gf28Multiply_comm a b, gf28Multiply_xor a b c⟩

/-- Settles O49: both sides are linear in each operand and agree on the powers of `x`. -/
theorem multiplyIsPolynomialProduct : Obligations.MultiplyIsPolynomialProduct := gf28Multiply_eq_polyReduce

end Sys2Proof.Machine
end

section
/-! SUPPORT. The word helpers byte by byte and the loop of `expand_key` word by word (44_key_schedule.md R100 to
R105). -/

namespace Sys2Proof.Machine

/-! ## The word helpers -/

@[simp] theorem wordByte_rotWord (w : Word) (k : Fin 4) : wordByte (rotWord w) k = wordByte w (k + 1) := by
  fin_cases k <;> simp [rotWord]

@[simp] theorem wordByte_subWord (w : Word) (k : Fin 4) : wordByte (subWord w) k = SBOX (wordByte w k) := by
  fin_cases k <;> simp [subWord]

/-- The rows of `mixcol_i` are the rotations of one row of coefficients (R91). -/
theorem wordByte_mixcolI (a : Word) (r : Fin 4) : wordByte (mixcolI a) r = circulant mixInverse (wordByte a) r := by
  rw [mixcolI, wordByte_word]
  fin_cases r <;> rfl

/-- A byte shifted to the top of a word is its byte 0 (R102). -/
theorem zeroExtend_shiftLeft_eq_word (b : Byte) : b.zeroExtend 32 <<< 24 = word b 0#8 0#8 0#8 := by
  apply BitVec.eq_of_getLsbD_eq
  intro k hk
  rw [word_getLsbD]
  by_cases h24 : k < 24
  · rcases (by omega : k < 8 ∨ k - 8 < 8 ∨ k - 8 - 8 < 8) with h | h | h <;> simp [h24, h]
  · have hlow : ¬ k < 8 ∧ ¬ k - 8 < 8 ∧ ¬ k - 16 < 8 := by omega
    simp [hk, h24, hlow, show k - 24 < 32 by omega, Nat.sub_sub, -BitVec.getLsbD_eq_getElem]

theorem wordByte_rconWord (j : Fin 10) (k : Fin 4) : wordByte (rconWord j) k = if k = 0 then RCON j else 0#8 := by
  rw [rconWord, zeroExtend_shiftLeft_eq_word, wordByte_word]
  fin_cases k <;> rfl

/-! ## The key expansion -/

/-- A vector of four words is its words (R35). -/
theorem columns_ext {v w : Block} (h : ∀ c, column v c = column w c) : v = w :=
  cells_ext fun r c => by rw [← wordByte_column, h c, wordByte_column]

/-- The loop of R103 writes each word once, so the recurrence holds in its result. -/
theorem expandWords_getElem_add_four (w : KeySchedule) (n : Fin 40) :
    (expandWords w)[n.val + 4] = nextWord (expandWords w) n := by
  have hstable : ∀ i (_ : i < n.val + 4), (expandWords w)[i] = (expandLoop w n.val (by omega))[i] :=
    expandLoop_getElem_stable w n.val 40 (by omega) (Nat.le_refl 40)
  have hwritten : (expandWords w)[n.val + 4] = nextWord (expandLoop w n.val (by omega)) n := by
    rw [expandWords, expandLoop_getElem_stable w (n.val + 1) 40 (by omega) (Nat.le_refl 40) _ (by omega)]
    simp [expandLoop]
  rw [hwritten, nextWord, nextWord, hstable n.val (by omega), hstable (n.val + 3) (by omega)]

/-- `expand_key` seeds words 0..3 from the key (R103). -/
theorem expandKey_getElem_seed (key : Block) (j : Fin 4) : (expandKey key)[j.val] = column key j := by
  rw [expandKey, expandWords, expandLoop_getElem_low _ _ _ _ j.isLt, seedWords_getElem_low]

/-- The key can be read off its schedule's words 0..3 (R104). -/
theorem expandKey_injective : Function.Injective expandKey := fun key key' h =>
  columns_ext fun c => by rw [← expandKey_getElem_seed, h, expandKey_getElem_seed]

end Sys2Proof.Machine
end

section
/-! SUPPORT. `S` and `KS` after an edge, in the terms of the data path (44_key_schedule.md R107;
45_round_controller_core.md R140). -/

namespace Sys2Proof.Machine

variable {s : State}

/-- Without reset at most one enable of `aes_key_schedule` is on, that of the phase (R107, R140). -/
theorem scheduleEdge_scheduleIn (hr : s.pins.rst = false) (ks : KeySchedule) : scheduleEdge s.scheduleIn ks =
    if s.PH = .idle ∧ s.pins.start = true then seedWords s.pins.key ks
    else if s.PH = .expand then expandWords ks
    else if s.PH = .invert then invertForDecryption ks
    else ks := by
  simp [scheduleEdge, State.scheduleIn, accept_iff hr, hr]

/-- `KS` after an edge is what `aes_key_schedule` makes of it (R107, R140). -/
theorem edgeResult_KS (hr : s.pins.rst = false) (h : s.reachable = true) :
    (edgeResult s).KS = scheduleEdge s.scheduleIn s.KS := by
  rw [scheduleEdge_scheduleIn hr]
  cases hp : s.PH with
  | idle => cases hs : s.pins.start <;> simp [edgeResult_idle_start, edgeResult_idle_quiet, hp, hs]
  | expand => cases ho : s.OPR <;> simp [edgeResult_expand_enc, edgeResult_expand_dec, hp, ho]
  | invert => simp [edgeResult_invert hp]
  | ark | sub | shift | mix | store =>
    obtain ⟨hKS, -, -⟩ := edgeResult_usesSchedule h (by rw [hp]; rfl)
    simpa using hKS

/-- `S` after an edge is what the data-path selection says (R140). -/
theorem edgeResult_S {rk : Block} (hr : s.pins.rst = false) (hk : s.currentRoundKey = some rk) :
    (edgeResult s).S = s.nextS rk := by
  cases hp : s.PH with
  | idle =>
    cases hs : s.pins.start <;>
      simp [edgeResult_idle_start, edgeResult_idle_quiet, State.nextS, accept_iff hr, hp, hs]
  | expand => cases ho : s.OPR <;> simp [edgeResult_expand_enc, edgeResult_expand_dec, State.nextS, hp, ho]
  | invert => simp [edgeResult_invert hp, State.nextS, hp]
  | ark => simp [edgeResult_ark hp hk, State.nextS, hp]
  | sub => simp [edgeResult_sub hp, State.nextS, hp]
  | shift => simp [edgeResult_shift hp, State.nextS, hp]
  | mix => simp [edgeResult_mix hp, State.nextS, hp]
  | store => simp [edgeResult_store hp, State.nextS, hp]

end Sys2Proof.Machine
end

section
/-! The statements about the key schedule and the data path (44_key_schedule.md). -/

namespace Sys2Proof.Machine

/-- Settles O29: the arms of R127 write `KS`, `S` and `OUT` as `aes_key_schedule` and the selection of R140
do, phase by phase. -/
theorem dataPathIsTheSelectedModules : Obligations.DataPathIsTheSelectedModules := by
  intro s t hr h
  rcases step_cases h with ⟨hrst, -⟩ | ⟨-, hc, rfl⟩
  · simp [hr] at hrst
  · simp only [advance_KS, advance_S, advance_OUT]
    exact ⟨edgeResult_KS hr hc, fun rk hk => edgeResult_S hr hk, edgeResult_OUT hc⟩

/-- Settles O57: the recurrence of the loop holds in its result, and the seeds determine the key. -/
theorem expandKeyIsTheRecurrence : Obligations.ExpandKeyIsTheRecurrence := by
  refine ⟨fun key => ⟨expandKey_getElem_seed key, fun n => ?_⟩, fun key key' h => expandKey_injective h⟩
  rw [expandKey, expandWords_getElem_add_four, nextWord]
  simp

/-- Settles O56: each helper is read byte by byte, and `InvMixWord` is `mixcol_i`. -/
theorem wordHelpersByteByByte : Obligations.WordHelpersByteByByte :=
  ⟨fun w k => ⟨wordByte_rotWord w k, wordByte_subWord w k, wordByte_mixcolI w k⟩,
    fun j => ⟨by simp [wordByte_rconWord], fun k hk => by simp [wordByte_rconWord, hk]⟩⟩

end Sys2Proof.Machine
end

section
/-! SUPPORT. Runs that keep the invariant, with reset or without (45_round_controller_core.md R137). -/

namespace Sys2Proof.Machine

variable {s : State}

/-- From the invariant there is always a next state, and it meets the invariant. -/
theorem exists_step_inv (hi : s.Inv) : ∃ t, step s = .next t ∧ t.Inv := by
  obtain ⟨t, ht, -⟩ := step_keeps_reachable hi.controller
  exact ⟨t, ht, stepKeepsTheInvariant s t hi ht⟩

/-- So any number of edges can be taken. -/
theorem exists_edges_inv (n : Nat) (hi : s.Inv) : ∃ t, edges n s = .next t ∧ t.Inv := by
  induction n generalizing s with
  | zero => exact ⟨s, rfl, hi⟩
  | succ n ih =>
    obtain ⟨t, hstep, ht⟩ := exists_step_inv hi
    rw [edges_succ_of_next n hstep]
    exact ih ht

end Sys2Proof.Machine
end

section
/-! The statement about safe runs (45_round_controller_core.md section 6). -/

namespace Sys2Proof.Machine

/-- Settles O34: the invariant rules out the states that are refused, and every step keeps it. -/
theorem everyRunIsSafe : Obligations.EveryRunIsSafe := fun _ _ hi k _ => exists_edges_inv k hi

end Sys2Proof.Machine
end

section
/-! SUPPORT. The micro-operation in force, as an instruction of its own, and the edge under other samples of the ports
(45_round_controller_core.md R114, R127). -/

namespace Sys2Proof.Machine

variable {s : State}

/-- While busy, the instruction that `PH` and `OPR` name is the arm of R127 that they select. -/
theorem exec_of_decodeUop {i : Instr} (hb : s.PH ≠ .idle) (hd : decodeUop s.uop = .ok i) : exec i s = busyEdge s := by
  rw [State.uop, decodeUop_uopCode false, decodeEdge_edgeCode] at hd
  cases hp : s.PH with
  | idle => exact absurd hp hb
  | expand | invert | ark | sub | shift | mix | store =>
    cases ho : s.OPR <;> rw [hp, ho] at hd <;> cases hd <;> simp [busyEdge, hp, ho, exec]

/-- Every command presented to a busy core is the micro-operation in force (R114). -/
theorem exec_command_of_busy (hb : s.PH ≠ .idle) (op : Bool) (key block : Block) :
    exec (.nop op key block) s = busyEdge s ∧ exec (.enc key block) s = busyEdge s ∧
      exec (.dec key block) s = busyEdge s :=
  ⟨if_neg hb, if_neg hb, if_neg hb⟩

/-- ARK does not read the ports. -/
theorem arkEdge_setPins (rk : Block) (s : State) (p : Pins) : arkEdge rk (s.setPins p) = (arkEdge rk s).setPins p := by
  cases hl : lastRound s.OPR s.RND with
  | true => rw [arkEdge_last rk hl, arkEdge_last (s := s.setPins p) rk hl]; rfl
  | false => rw [arkEdge_next rk hl, arkEdge_next (s := s.setPins p) rk hl]; rfl

/-- While busy no arm reads the ports (R114). -/
theorem edgeResult_setPins (hb : s.PH ≠ .idle) (p : Pins) : edgeResult (s.setPins p) = (edgeResult s).setPins p := by
  have hp' : (s.setPins p).PH = s.PH := rfl
  cases hp : s.PH with
  | idle => exact absurd hp hb
  | expand =>
    cases ho : s.OPR with
    | false => rw [edgeResult_expand_enc hp ho, edgeResult_expand_enc (hp'.trans hp) ho]; rfl
    | true => rw [edgeResult_expand_dec hp ho, edgeResult_expand_dec (hp'.trans hp) ho]; rfl
  | invert => rw [edgeResult_invert hp, edgeResult_invert (hp'.trans hp)]; rfl
  | ark =>
    have hk' : (s.setPins p).currentRoundKey = s.currentRoundKey := rfl
    cases hk : s.currentRoundKey with
    | some rk => rw [edgeResult_ark hp hk, edgeResult_ark (hp'.trans hp) (hk'.trans hk), arkEdge_setPins]
    | none => simp [edgeResult, hp, hk, hk']
  | sub => rw [edgeResult_sub hp, edgeResult_sub (hp'.trans hp)]; rfl
  | shift => rw [edgeResult_shift hp, edgeResult_shift (hp'.trans hp)]; rfl
  | mix => rw [edgeResult_mix hp, edgeResult_mix (hp'.trans hp)]; rfl
  | store => rw [edgeResult_store hp, edgeResult_store (hp'.trans hp)]; rfl

/-- Nor does the step, but for `rst`; and nothing of the sample stays. -/
theorem step_setPins (hb : s.PH ≠ .idle) (p : Pins) : step (s.setPins p) =
    if p.rst then .next (advance (resetEdge s)) else onNext (fromReachable s (edgeResult s)) advance := by
  cases hr : p.rst with
  | true =>
    have hreset : step (s.setPins p) = .next (advance ((resetEdge s).setPins p)) := if_pos hr
    rw [hreset, advance_setPins, if_pos rfl]
  | false =>
    have hreach : (s.setPins p).reachable = s.reachable := rfl
    rw [step_eq_fromReachable (s := s.setPins p) hr, edgeResult_setPins hb, if_neg Bool.false_ne_true]
    cases hc : s.reachable with
    | true => rw [fromReachable_next (hreach.trans hc), fromReachable_next hc, onNext_next, onNext_next, advance_setPins]
    | false => rw [fromReachable_refused (hreach.trans hc), fromReachable_refused hc]

/-! ## What an edge leaves of the key and of the model's own fields -/

/-- While busy no edge writes the key in words 0..3 (R26). -/
theorem edgeResult_KS_getElem_low (h : s.reachable = true) (hb : s.PH ≠ .idle) (j : Nat) (hj : j < 4) :
    (edgeResult s).KS[j] = s.KS[j] := by
  have hexpand : (expandWords s.KS)[j] = s.KS[j] := expandLoop_getElem_low s.KS 40 (Nat.le_refl 40) j hj
  cases hp : s.PH with
  | idle => exact absurd hp hb
  | expand => cases ho : s.OPR <;> simp [edgeResult_expand_enc, edgeResult_expand_dec, hp, ho, hexpand]
  | invert => simp [edgeResult_invert hp, invertForDecryption_getElem s.KS j (by omega), show ¬ 4 ≤ j by omega]
  | ark | sub | shift | mix | store =>
    obtain ⟨hKS, -, -⟩ := edgeResult_usesSchedule h (by rw [hp]; rfl)
    rw [hKS]

/-- The counter of the free values moves with the environment, not with an arm (log 3). -/
@[simp] theorem edgeResult_tick (s : State) : (edgeResult s).tick = s.tick := by
  cases hp : s.PH with
  | idle => cases hs : s.pins.start <;> simp [edgeResult_idle_start, edgeResult_idle_quiet, hp, hs]
  | expand => cases ho : s.OPR <;> simp [edgeResult_expand_enc, edgeResult_expand_dec, hp, ho]
  | invert => simp [edgeResult_invert hp]
  | ark => cases hk : s.currentRoundKey <;> simp [edgeResult, hp, hk]
  | sub => simp [edgeResult_sub hp]
  | shift => simp [edgeResult_shift hp]
  | mix => simp [edgeResult_mix hp]
  | store => simp [edgeResult_store hp]

/-- A command at rest does nothing or is taken; busy, it is the micro-operation in force (R113 to R115). -/
theorem exec_command_eq {i : Instr} {op : Bool} {key block : Block}
    (hi : i ∈ [.nop op key block, .enc key block, .dec key block]) :
    ∃ u, (u = s ∨ ∃ d, u = acceptCommand d key block s) ∧
      exec i s = if s.PH = .idle then fromReachable s u else busyEdge s := by
  simp only [List.mem_cons, List.not_mem_nil, or_false] at hi
  rcases hi with rfl | rfl | rfl
  · exact ⟨s, .inl rfl, rfl⟩
  · exact ⟨_, .inr ⟨false, rfl⟩, rfl⟩
  · exact ⟨_, .inr ⟨true, rfl⟩, rfl⟩

/-- All that a command can answer with a next state. -/
theorem exec_command_cases {t : State} {i : Instr} {op : Bool} {key block : Block}
    (hi : i ∈ [.nop op key block, .enc key block, .dec key block]) (h : exec i s = .next t) :
    (s.PH = .idle ∧ (t = s ∨ ∃ d, t = acceptCommand d key block s)) ∨
    (s.PH ≠ .idle ∧ s.reachable = true ∧ t = edgeResult s) := by
  obtain ⟨u, hu, hexec⟩ := exec_command_eq (s := s) hi
  rw [hexec] at h
  by_cases hp : s.PH = .idle
  · rw [if_pos hp] at h
    obtain ⟨-, rfl⟩ := fromReachable_cases h
    exact .inl ⟨hp, hu⟩
  · rw [if_neg hp, busyEdge_eq hp] at h
    obtain ⟨hc, rfl⟩ := fromReachable_cases h
    exact .inr ⟨hp, hc, rfl⟩

end Sys2Proof.Machine
end

section
/-! The statements about commands and the controller (45_round_controller_core.md sections 1 and 2). -/

namespace Sys2Proof.Machine

/-- Settles O12: a command on the ports of a busy core and the micro-operation in force are both the arm of the phase. -/
theorem busyCoreIgnoresCommands : Obligations.BusyCoreIgnoresCommands := by
  intro s i op key block hb hd
  have hp : s.PH ≠ .idle := by simpa [State.busy] using hb
  rw [exec_of_decodeUop hp hd]
  exact exec_command_of_busy hp op key block

/-- Settles O13: of the sample a busy step reads `rst` alone, and the environment's next sample replaces it. -/
theorem busyStepReadsNoOperands : Obligations.BusyStepReadsNoOperands := by
  intro s p q hb hpq
  have hp : s.PH ≠ .idle := by simpa [State.busy] using hb
  exact (step_setPins hp p).trans (hpq ▸ (step_setPins hp q).symm)

/-- Settles O24: read off the two things that a command can do, the accept edge and the arm of the phase. -/
theorem commandsFrame : Obligations.CommandsFrame := by
  intro s t i op key block hi h
  rcases exec_command_cases hi h with ⟨hp, rfl | ⟨d, rfl⟩⟩ | ⟨hb, hc, rfl⟩
  · simp [hp]
  · exact ⟨fun _ => rfl, fun hb => absurd hp hb,
      fun _ => ⟨rfl, fun j hj => seedWords_getElem_high key s.KS j j.isLt hj⟩, rfl, rfl, rfl⟩
  · obtain ⟨hpins, hscript⟩ := edgeResult_samples s
    exact ⟨fun hst => by rw [edgeResult_OUT hc, if_neg hst], fun _ j hj => edgeResult_KS_getElem_low hc hb j hj,
      fun hp => absurd hp hb, hpins, hscript, edgeResult_tick s⟩

/-- Settles O28: the arms of R127 are the rows of the table. -/
theorem controllerFollowsTheTable : Obligations.ControllerFollowsTheTable := by
  intro s t hr h
  rcases step_cases h with ⟨hrst, -⟩ | ⟨-, hc, rfl⟩
  · simp [hr] at hrst
  · exact next_controller_nextState hc

/-- Settles O6: a step decodes the code in force and does that instruction. -/
theorem stepRunsTheCodeInForce : Obligations.StepRunsTheCodeInForce := by
  intro s i hr hd
  have hf : fetch s = .ok i := hd
  simp [step, hr, hf]

/-- Settles O9: at rest the idle step is taken and writes nothing. -/
theorem nopAndIdleChangeNothing : Obligations.NopAndIdleChangeNothing :=
  ⟨fun _ _ _ _ ⟨hp, hc⟩ => (if_pos hp).trans (fromReachable_next hc),
    fun _ ⟨hp, hc⟩ hs => (if_pos hs).trans (whenInForce_next rfl hp hc)⟩

end Sys2Proof.Machine
end

section
/-! SUPPORT. The columns and the key words byte by byte (42_state_codec.md R80, R81; 43_round_transformations.md R90,
R95; 44_key_schedule.md R106). -/

namespace Sys2Proof.Machine

variable {s : State}

/-- In flat form `from_state` is the identity (R81). -/
@[simp] theorem fromState_eq (v : Block) : fromState v = v :=
  block_ext fun i => by rw [byte_fromState, cell, place_rowOf_colOf]

/-- Byte `i` of a block goes to its place (R80). -/
theorem cell_toState_rowOf_colOf (block : Block) (i : Fin 16) :
    cell (toState block) (rowOf i) (colOf i) = byte block i := by
  rw [cell_toState, place_rowOf_colOf]

/-- The key words are big-endian (R48). -/
theorem wordByte_seedWords (key : Block) (w : KeySchedule) (j k : Fin 4) :
    wordByte (seedWords key w)[j.val] k = byte key ⟨4 * j.val + k.val, by omega⟩ := by
  rw [seedWords_getElem_low, wordByte_column, cell]
  congr 1
  exact Fin.ext (Nat.add_comm _ _)

/-- The rows of `mixcol_f` are the rotations of one row of coefficients (R90). -/
theorem wordByte_mixcolF (a : Word) (r : Fin 4) : wordByte (mixcolF a) r = circulant mixForward (wordByte a) r := by
  rw [mixcolF, wordByte_word]
  fin_cases r <;> rfl

/-- A column's bytes are its cells (R83). -/
theorem wordByte_column_eq_cell (v : Block) (c : Fin 4) : wordByte (column v c) = fun k => cell v k c :=
  funext fun k => wordByte_column v k c

/-- Row `r`, column `c` of a round key is byte `r` of its word `c` (R34, R95). -/
theorem cell_roundKey (w : KeySchedule) (n : Fin 11) (r c : Fin 4) :
    cell (roundKey w n) r c = wordByte (w[4 * n.val + c.val]'(by omega)) r := cell_ofColumns _ r c

/-- The test for the last round of an ENC (R118, R121). -/
theorem lastRound_enc_iff (rnd : BitVec 4) : lastRound false rnd = true ↔ rnd = 10#4 := beq_iff_eq

/-- The test for the last round of a DEC (R118, R122). -/
theorem lastRound_dec_iff (rnd : BitVec 4) : lastRound true rnd = true ↔ rnd = 0#4 := beq_iff_eq

/-- ARK's writes, direction by direction (R118). -/
theorem arkEdge_eq (rk : Block) (s : State) : arkEdge rk s =
    if s.OPR = false then
      if s.RND = 10#4 then (s.setS (addroundkey s.S rk)).setPH .store
      else ((s.setS (addroundkey s.S rk)).setPH .sub).setRND (s.RND + 1#4)
    else
      if s.RND = 0#4 then (s.setS (addroundkey s.S rk)).setPH .store
      else ((s.setS (addroundkey s.S rk)).setPH .sub).setRND (s.RND - 1#4) := by
  cases ho : s.OPR <;> simp [arkEdge, ho, lastRound, nextRound]

/-- Every round of the traces is one that ARK runs in (R55). -/
theorem reachable_of_ark (hp : s.PH = .ark) (h : s.RND.toNat ≤ 10) : s.reachable = true := by
  simpa [State.reachable, reachable, hp] using h

end Sys2Proof.Machine
end

section
/-! The statements about the micro-operations (45_round_controller_core.md sections 2 to 4). -/

namespace Sys2Proof.Machine

/-- Settles O14: EXPAND is the loop of R103, which keeps words 0..3 and leaves the recurrence in the others. -/
theorem expandComputesTheSchedule : Obligations.ExpandComputesTheSchedule := by
  intro s hp h
  have hexec : exec (.expand s.OPR) s =
      .next (if s.OPR then (s.setKS (expandWords s.KS)).setPH .invert
        else ((s.setKS (expandWords s.KS)).setPH .ark).setRND 0#4) := whenInForce_next rfl hp h
  refine ⟨expandWords s.KS, ?_,
    fun i => expandLoop_getElem_low s.KS 40 (Nat.le_refl 40) i i.isLt, fun n => ?_⟩
  · rw [hexec]
    -- the two spellings of the register writes agree for every schedule, so the loop need not be run
    generalize expandWords s.KS = ks
    rfl
  · rw [expandWords_getElem_add_four, nextWord]
    simp

/-- Settles O15: INVERT is the function of R106, word by word. -/
theorem invertTransformsTheMiddleWords : Obligations.InvertTransformsTheMiddleWords := fun s ho hp h =>
  ⟨invertForDecryption s.KS, whenInForce_next ho hp h, fun i => invertForDecryption_getElem s.KS i i.isLt,
    fun _ hk => congrArg invertForDecryption hk⟩

/-- Settles O16: ARK is `addroundkey` with the round key that `RND` selects, which it has in the eleven rounds; what comes
next is the test for the last round of the direction. -/
theorem arkAddsTheRoundKey : Obligations.ArkAddsTheRoundKey := by
  intro s h hp
  have hlt : s.RND.toNat < 11 := by omega
  have hexec : exec (.ark s.OPR) s = .next (arkEdge (roundKey s.KS ⟨s.RND.toNat, hlt⟩) s) := by
    simp only [exec, execArk, currentRoundKey_some hlt]
    exact whenInForce_next rfl hp (reachable_of_ark hp h)
  refine ⟨addroundkey s.S (roundKey s.KS ⟨s.RND.toNat, hlt⟩), ?_, fun r c => ?_⟩
  · rw [hexec, arkEdge_eq]
    rfl
  · rw [cell_addroundkey, cell_roundKey]

/-- Settles O17: SUB and ISUB are the table lookups of R86 and R87, cell by cell. -/
theorem subLooksUpEveryByte : Obligations.SubLooksUpEveryByte :=
  ⟨fun s ho hp h => ⟨subbytesForward s.S, whenInForce_next ho hp h, cell_subbytesForward s.S⟩,
    fun s ho hp h => ⟨subbytesInverse s.S, whenInForce_next ho hp h, cell_subbytesInverse s.S⟩⟩

/-- Settles O18: SHIFT and ISHIFT are the rotations of R88 and R89, whose column arithmetic is modulo 4; what comes next is
the test for the last round of the direction. -/
theorem shiftRotatesTheRows : Obligations.ShiftRotatesTheRows := by
  refine ⟨fun s ho hp h => ⟨shiftrowsForward s.S, ?_, cell_shiftrowsForward s.S⟩,
    fun s ho hp h => ⟨shiftrowsInverse s.S, ?_, fun r c => ?_⟩⟩
  · have hafter : afterShift s = if s.RND = 10#4 then .ark else .mix := by
      simp only [afterShift, ho, lastRound_enc_iff]
    rw [← hafter]
    exact whenInForce_next ho hp h
  · have hafter : afterShift s = if s.RND = 0#4 then .ark else .mix := by
      simp only [afterShift, ho, lastRound_dec_iff]
    rw [← hafter]
    exact whenInForce_next ho hp h
  · rw [cell_shiftrowsInverse]
    congr 1
    ext
    simp only [Fin.sub_def]
    congr 1
    omega

/-- Settles O19: each row of the product of R90 and of R91 is a rotation of the row of coefficients. -/
theorem mixMultipliesTheColumns : Obligations.MixMultipliesTheColumns := by
  refine ⟨fun s ho hp h => ⟨mixcolumnsForward s.S, whenInForce_next ho hp h, fun r c => ?_⟩,
    fun s ho hp h => ⟨mixcolumnsInverse s.S, whenInForce_next ho hp h, fun r c => ?_⟩⟩
  · rw [cell_mixcolumnsForward, wordByte_mixcolF, wordByte_column_eq_cell]
  · rw [cell_mixcolumnsInverse, wordByte_mixcolI, wordByte_column_eq_cell]

/-- Settles O10: both commands are LOAD's register writes, with the direction of the command. -/
theorem commandsAreTakenWhenResting : Obligations.CommandsAreTakenWhenResting := fun s key block ⟨hp, hc⟩ =>
  ⟨toState block, seedWords key s.KS, (if_pos hp).trans (fromReachable_next hc),
    (if_pos hp).trans (fromReachable_next hc), cell_toState_rowOf_colOf block, wordByte_seedWords key s.KS,
    fun i => seedWords_getElem_high key s.KS i i.isLt⟩

/-- Settles O11: LOAD makes the same register writes with what the ports carry. -/
theorem loadTakesTheCommandOnThePorts : Obligations.LoadTakesTheCommandOnThePorts := fun s ⟨hp, hc⟩ hs =>
  ⟨toState s.pins.blockIn, seedWords s.pins.key s.KS, (if_pos ⟨hs, rfl⟩).trans (whenInForce_next rfl hp hc),
    cell_toState_rowOf_colOf s.pins.blockIn, wordByte_seedWords s.pins.key s.KS,
    fun i => seedWords_getElem_high s.pins.key s.KS i i.isLt⟩

/-- Settles O20: STORE writes `from_state(S)`, which reads every byte from its cell and in flat form is `S`. -/
theorem storeDeliversTheResult : Obligations.StoreDeliversTheResult := fun s hp h =>
  ⟨fromState s.S, whenInForce_next rfl hp h, byte_fromState s.S, fromState_eq s.S⟩

end Sys2Proof.Machine
end

section
/-! SUPPORT. A command from its accept edge to its end: what each edge of it keeps, and the registers that it leaves
(45_round_controller_core.md R129, R134, R137). -/

namespace Sys2Proof.Machine

variable {s : State}

/-! ## Along a command in progress -/

theorem iterate_reachable (h : s.reachable = true) (n : Nat) : (nextState^[n] s).reachable = true := by
  induction n generalizing s with
  | zero => exact h
  | succ n ih => exact ih (nextState_reachable h)

/-- With edges left, a command is in progress. -/
theorem busy_of_edgesLeft_pos (h : 0 < s.edgesLeft) : s.PH ≠ .idle := fun hp => by
  simp [State.edgesLeft, edgesLeft, hp] at h

/-- After `n` of the edges that a command has left, it has `n` fewer left (R137). -/
theorem iterate_edgesLeft_add {n : Nat} (h : s.reachable = true) (hn : n ≤ s.edgesLeft) :
    (nextState^[n] s).edgesLeft + n = s.edgesLeft := by
  induction n generalizing s with
  | zero => rfl
  | succ n ih =>
    have hleft : (nextState s).edgesLeft + 1 = s.edgesLeft := by
      rw [nextState, advance_edgesLeft, edgesLeft_edgeResult h (busy_of_edgesLeft_pos (by omega))]
    have hrest := ih (nextState_reachable h) (by omega)
    rw [Function.iterate_succ_apply]
    omega

/-- Before its last edge a command is in progress. -/
theorem iterate_busy {n : Nat} (h : s.reachable = true) (hn : n < s.edgesLeft) : (nextState^[n] s).PH ≠ .idle := by
  have hleft := iterate_edgesLeft_add h hn.le
  exact busy_of_edgesLeft_pos (by omega)

/-- What every edge of a command in progress keeps is kept to its end. -/
theorem iterate_eq_of_busy_edge {α : Type} {f : State → α}
    (hf : ∀ t : State, t.reachable = true → t.PH ≠ .idle → f (nextState t) = f t) {n : Nat} (h : s.reachable = true)
    (hn : n ≤ s.edgesLeft) : f (nextState^[n] s) = f s := by
  induction n with
  | zero => rfl
  | succ n ih => rw [Function.iterate_succ_apply', hf _ (iterate_reachable h n) (iterate_busy h hn), ih (by omega)]

/-- Without reset the invariant holds along a run. -/
theorem iterate_inv (hi : s.Inv) (n : Nat) : (nextState^[n] s).Inv := by
  induction n generalizing s with
  | zero => exact hi
  | succ n ih => exact ih (advance_inv (edgeResult_inv hi))

/-- The schedule of the key in words 0..3 is the same all along a command: no edge of it writes them (R26). -/
theorem expandWords_nextState (h : s.reachable = true) (hb : s.PH ≠ .idle) :
    expandWords (nextState s).KS = expandWords s.KS := by
  rw [nextState, advance_KS]
  exact expandWords_congr fun i hi => edgeResult_KS_getElem_low h hb i hi

/-- A command ends with the schedule of its direction, for the key in words 0..3 (R11). -/
theorem iterate_edgesLeft_KS (hi : s.Inv) (hb : s.PH ≠ .idle) :
    (nextState^[s.edgesLeft] s).KS = commandSchedule (nextState^[s.edgesLeft] s).OPR s.KS := by
  obtain ⟨hidle, hdone, -, -⟩ := iterate_edgesLeft hi.controller hb
  have hready : (nextState^[s.edgesLeft] s).scheduleReady :=
    (holdsSchedule_iff_of_idle hidle).mp (iterate_inv hi _).schedule hdone
  have hkey : expandWords (nextState^[s.edgesLeft] s).KS = expandWords s.KS :=
    iterate_eq_of_busy_edge (f := fun t => expandWords t.KS) (fun _ => expandWords_nextState) hi.controller
      (Nat.le_refl _)
  rw [commandSchedule, ← hkey]
  exact hready

/-! ## From the accept edge on -/

/-- How many edges a command takes (R129, R134). -/
def commandEdges (op : Bool) : Nat := if op then 44 else 43

/-- Seeding leaves the schedule of the key to come (R103). -/
theorem expandWords_seedWords (key : Block) (w : KeySchedule) : expandWords (seedWords key w) = expandKey key :=
  expandWords_congr fun i hi => by
    rw [seedWords_getElem_low key w ⟨i, hi⟩, seedWords_getElem_low key _ ⟨i, hi⟩]

/-- A command just taken has `DONE = 0` and its schedule still to make, so it meets the invariant whatever the core held. -/
theorem acceptCommand_inv (op : Bool) (key block : Block) (hs : s.Resting) : (acceptCommand op key block s).Inv where
  controller := by
    rcases rnd_of_resting hs with hr | hr <;> simp [State.reachable, reachable, hr]
  finished := by simp
  schedule := trivial

theorem acceptCommand_edgesLeft (op : Bool) (key block : Block) (s : State) :
    (acceptCommand op key block s).edgesLeft + 1 = commandEdges op := by
  cases op <;> rfl

theorem commandListing_length (op : Bool) (left : Nat) : (commandListing op left).length + 1 = commandEdges op := by
  cases op <;> rfl

/-- The registers that a command leaves (R129, R134). -/
structure State.LeftBy (t : State) (op : Bool) (key block : Block) : Prop where
  out  : t.OUT = if op then decrypt block key else encrypt block key
  done : t.DONE = true
  rest : t.PH = .idle
  rnd  : t.RND = if op then 0#4 else 10#4
  opr  : t.OPR = op
  ks   : t.KS = if op then invertForDecryption (expandKey key) else expandKey key
  flat : t.S = t.OUT

/-- They are a function of the command. -/
theorem sameRegisters_of_leftBy {t u : State} {op : Bool} {key block : Block} (ht : t.LeftBy op key block)
    (hu : u.LeftBy op key block) : t.sameRegisters u := by
  have hout : t.OUT = u.OUT := ht.out.trans hu.out.symm
  exact ⟨ht.flat.trans (hout.trans hu.flat.symm), ht.ks.trans hu.ks.symm, hout, ht.opr.trans hu.opr.symm,
    ht.rest.trans hu.rest.symm, ht.rnd.trans hu.rnd.symm, ht.done.trans hu.done.symm⟩

/-- Where the controller is after the last edge of a command (R127). -/
theorem iterate_commandEdges_controller {op : Bool} {key block : Block} (hs : s.Resting)
    (hp : s.presents op key block) :
    (nextState^[commandEdges op] s).controller = ⟨op, .idle, if op then 0#4 else 10#4, true⟩ := by
  have haccept : (nextState s).controller = ⟨op, .expand, s.RND, false⟩ := by
    simp [nextState_of_presents hs hp, State.controller]
  obtain ⟨-, hend⟩ := atLine_of_follow (nextState_reachable hs.2)
    (haccept ▸ follow_commandListing op (rnd_of_resting hs))
  rwa [← Function.iterate_succ_apply, Nat.succ_eq_add_one, commandListing_length] at hend

/-- A command presented to a resting core leaves its registers after its edges. -/
theorem edges_of_command {op : Bool} {key block : Block} (hs : s.Resting) (hp : s.presents op key block)
    (hr : s.noReset (commandEdges op)) :
    ∃ t, edges (commandEdges op) s = .next t ∧ t.LeftBy op key block := by
  refine ⟨_, edges_eq_iterate hs.2 hr, ?_⟩
  have hcontroller := iterate_commandEdges_controller hs hp
  rw [← acceptCommand_edgesLeft op key block s, ← advance_edgesLeft, Function.iterate_succ_apply,
    nextState_of_presents hs hp] at hcontroller ⊢
  have hinv : (advance (acceptCommand op key block s)).Inv := advance_inv (acceptCommand_inv op key block hs)
  have hbusy : (advance (acceptCommand op key block s)).PH ≠ .idle := by simp
  obtain ⟨hidle, hdone, hout, hflat⟩ := iterate_edgesLeft hinv.controller hbusy
  have hopr := congrArg Controller.OPR hcontroller
  have hks := iterate_edgesLeft_KS hinv hbusy
  exact {
    out := by rw [hout, advance_result, acceptCommand_result]
    done := hdone
    rest := hidle
    rnd := congrArg Controller.RND hcontroller
    opr := hopr
    ks := by rw [hks, show State.OPR _ = op from hopr, commandSchedule, advance_KS, acceptCommand_KS, expandWords_seedWords]
    flat := by rw [hflat, fromState_eq] }

end Sys2Proof.Machine
end

section
/-! The statements about commands from their accept edge to their end (45_round_controller_core.md sections 5 and 6;
70_reset_and_hazards.md R172). -/

namespace Sys2Proof.Machine

/-- Settles O36: the registers that a command leaves, for ENC. -/
theorem encComputesEncrypt : Obligations.EncComputesEncrypt := by
  intro s key block hs hp hr
  obtain ⟨t, ht, hout, hdone, hrest, hrnd, hopr, hks, hflat⟩ := edges_of_command hs hp hr
  exact ⟨t, ht, hout, hdone, hrest, hrnd, hopr, hks, hflat⟩

/-- Settles O37: the registers that a command leaves, for DEC. -/
theorem decComputesDecrypt : Obligations.DecComputesDecrypt := by
  intro s key block hs hp hr
  obtain ⟨t, ht, hout, hdone, hrest, hrnd, hopr, hks, hflat⟩ := edges_of_command hs hp hr
  exact ⟨t, ht, hout, hdone, hrest, hrnd, hopr, hks, hflat⟩

/-- Settles O40: both runs leave the registers of the one command, which are a function of it. -/
theorem resultDependsOnTheAcceptEdgeOnly : Obligations.ResultDependsOnTheAcceptEdgeOnly := by
  intro s t op key block hs ht hps hpt hrs hrt
  obtain ⟨u, hu, huLeft⟩ := edges_of_command hs hps hrs
  obtain ⟨v, hv, hvLeft⟩ := edges_of_command ht hpt hrt
  exact ⟨u, v, hu, hv, sameRegisters_of_leftBy huLeft hvLeft⟩

/-- Settles O41: each row of the sequencing table has one edge less left, and the sample does not enter. -/
theorem eachEdgeBringsTheEndNearer : Obligations.EachEdgeBringsTheEndNearer := by
  intro s t hb hr h
  rcases step_cases h with ⟨hrst, -⟩ | ⟨-, hc, rfl⟩
  · simp [hr] at hrst
  · rw [advance_edgesLeft]
    exact edgesLeft_edgeResult hc (by simpa [State.busy] using hb)

/-- Settles O42: after the edges it has left the command is over; before that there are edges left, so the core is busy,
and the invariant keeps a busy core from being done. -/
theorem aCommandInProgressEnds : Obligations.ACommandInProgressEnds := by
  intro s hi hb hr
  obtain ⟨hidle, hdone, -, hout⟩ := iterate_edgesLeft hi.controller (by simpa [State.busy] using hb)
  refine ⟨⟨_, edges_eq_iterate hi.controller hr, hdone, hidle, hout⟩, fun n t hn ht => ?_⟩
  rw [edges_eq_iterate hi.controller (noReset_mono hn.le hr)] at ht
  cases ht
  have hbusy := iterate_busy hi.controller hn
  refine ⟨by simpa [State.busy] using hbusy, ?_⟩
  by_contra hd
  obtain ⟨hrest, -⟩ := (iterate_inv hi n).finished (by simpa [State.done] using hd)
  exact hbusy hrest

end Sys2Proof.Machine
end

section
/-! SUPPORT. No instruction and no step answers with a fault (60_exceptions.md R146). -/

namespace Sys2Proof.Machine

/-- A command is the idle step, the accept edge or the arm of the phase, each with no guard but the reachable controller
states (R113 to R115). -/
theorem exec_command_ne_fault {i : Instr} {op : Bool} {key block : Block} (s : State) (r : Fault)
    (hi : i ∈ [.nop op key block, .enc key block, .dec key block]) : exec i s ≠ .fault r := by
  obtain ⟨u, -, hexec⟩ := exec_command_eq (s := s) hi
  rw [hexec]
  by_cases hp : s.PH = .idle
  · rw [if_pos hp]
    exact fromReachable_ne_fault
  · rw [if_neg hp, busyEdge_eq hp]
    exact fromReachable_ne_fault

/-- A micro-operation is refused by its own guard, or else done if its code is in force (R49). -/
theorem exec_ne_fault (i : Instr) (s : State) (r : Fault) : exec i s ≠ .fault r := by
  cases i with
  | nop op key block => exact exec_command_ne_fault s r (.head _)
  | enc key block => exact exec_command_ne_fault (op := false) s r (.tail _ (.head _))
  | dec key block => exact exec_command_ne_fault (op := true) s r (.tail _ (.tail _ (.head _)))
  | idle opr =>
    simp only [exec, execIdle]
    split
    · exact whenInForce_ne_fault
    · simp
  | load op opr =>
    simp only [exec, execLoad]
    split
    · exact whenInForce_ne_fault
    · simp
  | ark opr =>
    cases hk : s.currentRoundKey with
    | some rk => simpa [exec, execArk, hk] using whenInForce_ne_fault
    | none => simp [exec, execArk, hk]
  | expand | invert | sub | isub | shift | ishift | mix | imix | store => exact whenInForce_ne_fault

/-- A step is a reset, the arm of the phase, or refused (R146). -/
theorem step_ne_fault (s : State) (r : Fault) : step s ≠ .fault r := by
  cases hr : s.pins.rst with
  | true => simp [step, hr]
  | false =>
    cases hc : s.reachable with
    | true => simp [step_reachable hr hc]
    | false => simp [step_unreachable hr hc]

end Sys2Proof.Machine
end

section
/-! SUPPORT. The byte-sequence wrapper (60_exceptions.md R147). -/

namespace Sys2Proof.Machine

theorem blockOfBytes_eq_some {bs : List Byte} (h : bs.length = 16) :
    blockOfBytes bs = some (ofBytes fun i => bs[i]) := dif_pos h

theorem blockOfBytes_eq_none {bs : List Byte} (h : bs.length ≠ 16) : blockOfBytes bs = none := dif_neg h

end Sys2Proof.Machine
end

section
/-! SUPPORT. The trace port, before one edge and along a command (60_exceptions.md R155). -/

namespace Sys2Proof.Machine

variable {s : State}

/-! ## Before one edge -/

/-- `trace_valid` is the phase ARK, whatever the other three outputs are (R155). -/
@[simp] theorem trace_valid (s : State) : s.trace.valid = (s.PH == .ark) := by
  cases hp : s.PH with
  | ark => cases hk : s.currentRoundKey <;> simp [State.trace, hp, hk]
  | idle | expand | invert | sub | shift | mix | store => simp [State.trace, hp]

/-- In phase ARK the port shows the round, its key and the state to be written (R155). -/
theorem trace_of_ark {rk : Block} (hp : s.PH = .ark) (hk : s.currentRoundKey = some rk) :
    s.trace = { valid := true, round := s.RND, key := rk, state := addroundkey s.S rk } := by
  simp [State.trace, hp, hk]

/-- All that ARK can answer with a next state (R118). -/
theorem exec_ark_cases {t : State} {opr : Bool} (h : exec (.ark opr) s = .next t) :
    ∃ rk, s.PH = .ark ∧ s.currentRoundKey = some rk ∧ t = arkEdge rk s := by
  cases hk : s.currentRoundKey with
  | none => simp [exec, execArk, hk] at h
  | some rk =>
    simp only [exec, execArk, hk] at h
    obtain ⟨-, hp, -, rfl⟩ := whenInForce_cases h
    exact ⟨rk, hp, rfl, rfl⟩

/-! ## Along a command -/

/-- The rounds of the ARKs that the command in progress still does, the coming edge's included (R130, R135). -/
def roundsLeft (opr : Bool) (ph : Phase) (rnd : BitVec 4) : List (Fin 11) :=
  match ph with
  | .idle | .store => []
  | .expand | .invert => roundIndex (firstRound opr) :: roundsAfter opr (firstRound opr)
  | .ark | .sub | .shift | .mix => roundIndex rnd :: roundsAfter opr rnd

/-- In the sequencing table each row of a command in progress has its own ARK, if it is one, and those of the row that
comes next. -/
theorem roundsLeft_next (opr : Bool) (ph : Phase) (rnd : BitVec 4) (done : Bool) (hb : ph ≠ .idle)
    (h : reachable opr ph rnd = true) :
    (Controller.next ⟨opr, ph, rnd, done⟩ false false).map
        (fun c => (if ph = .ark then [roundIndex rnd] else []) ++ roundsLeft c.OPR c.PH c.RND) =
      some (roundsLeft opr ph rnd) := by
  cases ph with
  | idle => exact absurd rfl hb
  | expand | invert | ark | sub | shift | mix | store => revert opr rnd done; decide

/-- The rounds left before an edge are the edge's own, if it is an ARK, and those left after it. -/
theorem roundsLeft_nextState (h : s.reachable = true) (hb : s.PH ≠ .idle) :
    roundsLeft s.OPR s.PH s.RND = (if s.PH = .ark then [roundIndex s.RND] else []) ++
      roundsLeft (nextState s).OPR (nextState s).PH (nextState s).RND := by
  have hc : s.controller.PH ≠ .idle := hb
  have hnext := next_controller_nextState h
  rw [next_of_busy hc] at hnext
  have hleft := roundsLeft_next s.OPR s.PH s.RND s.DONE hb h
  rw [← State.controller, hnext] at hleft
  exact (Option.some.inj hleft).symm

/-- The schedule of a command in progress is the same before and after each of its edges (R11, R13). -/
theorem commandSchedule_nextState (h : s.reachable = true) (hb : s.PH ≠ .idle) :
    commandSchedule (nextState s).OPR (nextState s).KS = commandSchedule s.OPR s.KS := by
  have hopr : (nextState s).OPR = s.OPR := by simp [nextState, edgeResult_OPR h, hb]
  rw [commandSchedule, expandWords_nextState h hb, hopr, commandSchedule]

/-- What an ARK shows of itself: its round, and the round key of that round in the command's schedule (R11, R155). -/
theorem trace_round_key (hi : s.Inv) (hp : s.PH = .ark) : (s.trace.round.toNat, s.trace.key) =
    ((roundIndex s.RND).val, roundKey (commandSchedule s.OPR s.KS) (roundIndex s.RND)) := by
  have hready : s.KS = commandSchedule s.OPR s.KS :=
    (holdsSchedule_iff_of_usesSchedule (by rw [hp]; rfl)).mp hi.schedule
  have hround : (roundIndex s.RND).val = s.RND.toNat := Nat.mod_eq_of_lt (rnd_lt_of_reachable_ark hp hi.controller)
  rw [trace_of_ark hp (currentRoundKey_roundIndex hp hi.controller), ← hready, hround]

/-- The events of a run are those of its first edge and of the rest. -/
theorem traceEvents_succ {n : Nat} (h : s.reachable = true) (hr : s.pins.rst = false) :
    traceEvents (n + 1) s = (if s.PH = .ark then [s.trace] else []) ++ traceEvents n (nextState s) := by
  simp [traceEvents, step_eq_nextState hr h]

/-- Over the edges that it has left, a command in progress shows the rounds that it has left, with their round keys. -/
theorem traceEvents_edgesLeft (hi : s.Inv) (hr : s.noReset s.edgesLeft) :
    (traceEvents s.edgesLeft s).map (fun tr => (tr.round.toNat, tr.key)) =
      (roundsLeft s.OPR s.PH s.RND).map fun r => (r.val, roundKey (commandSchedule s.OPR s.KS) r) := by
  generalize hn : s.edgesLeft = n at hr
  induction n generalizing s with
  | zero =>
    have hp : s.PH = .idle := by
      by_contra hb
      have hleft := edgesLeft_edgeResult hi.controller hb
      omega
    simp [traceEvents, roundsLeft, hp]
  | succ n ih =>
    have h := hi.controller
    have hb : s.PH ≠ .idle := busy_of_edgesLeft_pos (by omega)
    have hleft : (nextState s).edgesLeft + 1 = s.edgesLeft := by
      rw [nextState, advance_edgesLeft, edgesLeft_edgeResult h hb]
    have hinv : (nextState s).Inv := advance_inv (edgeResult_inv hi)
    have hrest := ih hinv (by omega) (noReset_nextState hr)
    rw [traceEvents_succ h (noReset_here hr), roundsLeft_nextState h hb, List.map_append, List.map_append, hrest,
      commandSchedule_nextState h hb]
    congr 1
    by_cases hp : s.PH = .ark
    · simpa [hp] using trace_round_key hi hp
    · simp [hp]

/-- All eleven rounds are left when a command is taken, in the order of its direction (R128, R133). -/
theorem roundsLeft_expand : ∀ (op : Bool) (rnd : BitVec 4),
    roundsLeft op .expand rnd = if op then (List.finRange 11).reverse else List.finRange 11 := by decide

/-- A command presented to a resting core shows its eleven ARKs. -/
theorem traceEvents_of_command {op : Bool} {key block : Block} (hs : s.Resting) (hp : s.presents op key block)
    (hr : s.noReset (commandEdges op)) :
    (traceEvents (commandEdges op) s).map (fun tr => (tr.round.toNat, tr.key)) =
      (if op then (List.finRange 11).reverse else List.finRange 11).map fun r =>
        (r.val, roundKey (if op then invertForDecryption (expandKey key) else expandKey key) r) := by
  have hidle : s.PH ≠ .ark := by simp [hs.1]
  rw [← acceptCommand_edgesLeft op key block s, ← advance_edgesLeft] at hr ⊢
  have hrest := noReset_nextState hr
  rw [nextState_of_presents hs hp] at hrest
  rw [traceEvents_succ hs.2 (noReset_here hr), if_neg hidle, List.nil_append, nextState_of_presents hs hp,
    traceEvents_edgesLeft (advance_inv (acceptCommand_inv op key block hs)) hrest]
  simp [roundsLeft_expand, commandSchedule, expandWords_seedWords]

end Sys2Proof.Machine
end

section
/-! The statements about exceptions and the trace port (60_exceptions.md). -/

namespace Sys2Proof.Machine

/-- Settles O30: every instruction goes on or is refused, and so does every step. -/
theorem nothingFaults : Obligations.NothingFaults := ⟨step_ne_fault, exec_ne_fault⟩

/-- Settles O45: an ARK that has a next state is in phase ARK and has a round key, and that is what the port shows. -/
theorem traceShowsEachArk : Obligations.TraceShowsEachArk := by
  refine fun s t => ⟨rfl, s.trace, rfl, trace_valid s, fun h => ?_⟩
  obtain ⟨rk, hp, hk, rfl⟩ := exec_ark_cases h
  rw [trace_of_ark hp hk, hk, arkEdge_S]
  exact ⟨rfl, rfl, rfl⟩

/-- Settles O46: each edge of a command shows its own ARK, if it is one, and the command takes up all eleven rounds. -/
theorem elevenTraceEventsPerCommand : Obligations.ElevenTraceEventsPerCommand :=
  ⟨fun _ _ _ hs hp hr => traceEvents_of_command hs hp hr, fun _ _ _ hs hp hr => traceEvents_of_command hs hp hr⟩

/-- Settles O60: a sequence makes a block only if it has sixteen bytes, and the block then has those bytes. -/
theorem wrapperChecksLengthsFirst : Obligations.WrapperChecksLengthsFirst := by
  refine fun s op block key => ⟨fun h => ?_, fun hb hk => ?_⟩
  · rcases h with hb | hk
    · simp [present, blockOfBytes_eq_none hb]
    · cases hblock : blockOfBytes block <;> simp [present, hblock, blockOfBytes_eq_none hk]
  · refine ⟨ofBytes fun i => key[i], ofBytes fun i => block[i], ?_, fun i => ⟨byte_ofBytes _ i, byte_ofBytes _ i⟩⟩
    simp only [present, blockOfBytes_eq_some hb, blockOfBytes_eq_some hk]
    rfl

end Sys2Proof.Machine
end

section
/-! The statement about a reset edge from every state (70_reset_and_hazards.md). -/

namespace Sys2Proof.Machine

/-- With `rst = 1` a step is the reset edge and then the environment's sample, in every state (R161). -/
theorem step_of_rst {s : State} (hr : s.pins.rst = true) : step s = .next (advance (resetEdge s)) := if_pos hr

/-- With the reset values in `PH`, `DONE` and `OUT`, the status ports and `block_out` are 0 (R12, R16, R17). -/
theorem outputs_of_reset_values {t : State} (hp : t.PH = .idle) (hd : t.DONE = false) (ho : t.OUT = 0#128) (c : Config) :
    (t.outputs c).busy = false ∧ (t.outputs c).done = false ∧ (t.outputs c).blockOut = 0#128 :=
  ⟨by simp [State.outputs, State.busy, hp], hd, ho⟩

/-- Settles O2: the reset edge writes five registers whatever the state was, and the environment's sample touches none. -/
theorem resetEdgeResetsFromEveryState : Obligations.ResetEdgeResetsFromEveryState := by
  intro s hr
  have hp : (advance (resetEdge s)).PH = .idle := by simp
  have hd : (advance (resetEdge s)).DONE = false := by simp
  have ho : (advance (resetEdge s)).OUT = 0#128 := by simp
  exact ⟨_, step_of_rst hr, hp, by simp, by simp, hd, ho, outputs_of_reset_values hp hd ho⟩

end Sys2Proof.Machine
end

section
/-! SUPPORT. Multiplication in GF(2^8) as that of a field, and the forward table as the affine image of the field inverse
(40_gf28.md R60, R62; 41_sbox_tables.md R74). -/

namespace Sys2Proof.Machine

/-- Bit `i` of `double` (R60): bit `i - 1`, and the bit that the shift drops added where `0x1B` has a bit. -/
theorem gf28Double_getLsbD (a : Byte) {i : Nat} (hi : i < 8) : (gf28Double a).getLsbD i =
    ((decide (0 < i) && a.getLsbD (i - 1)) ^^ (a.getLsbD 7 && (0x1B#8).getLsbD i)) := by
  cases h : a.getLsbD 7 <;> cases i <;>
    simp [gf28Double, h, hi, BitVec.getLsbD_shiftLeft, -BitVec.getLsbD_eq_getElem]

/-! ## Associativity and inverses (R62) -/

theorem xor_gf28Multiply (a b c : Byte) : gf28Multiply (a ^^^ b) c = gf28Multiply a c ^^^ gf28Multiply b c :=
  gf28Multiply_xorBilinear.1 c a b

theorem gf28Multiply_assoc_xPow : ∀ i j k : Fin 8, gf28Multiply (gf28Multiply (xPow i) (xPow j)) (xPow k) =
    gf28Multiply (xPow i) (gf28Multiply (xPow j) (xPow k)) := by decide

/-- Both ways of multiplying three bytes are linear in each, so associativity need only hold on the powers of `x`. -/
theorem gf28Multiply_assoc (a b c : Byte) :
    gf28Multiply (gf28Multiply a b) c = gf28Multiply a (gf28Multiply b c) := by
  obtain ⟨hleft, hright⟩ := gf28Multiply_xorBilinear
  refine XorLinear.eq_of_xPow (hright (gf28Multiply a b)) ((hright a).comp (hright b)) (fun k => ?_) c
  exact XorBilinear.eq_of_xPow (gf28Multiply_xorBilinear.comp (hleft (xPow k)))
    ⟨fun b => hleft (gf28Multiply b (xPow k)), fun a => (hright a).comp (hleft (xPow k))⟩
    (fun i j => gf28Multiply_assoc_xPow i j k) a b

/-- A byte has at most one inverse: of two, each is the product of both with the byte. -/
theorem gf28Multiply_inverse_unique {a b c : Byte} (hb : gf28Multiply a b = 1#8) (hc : gf28Multiply a c = 1#8) :
    c = b :=
  calc c = gf28Multiply c (gf28Multiply a b) := by rw [hb, gf28Multiply_one]
    _ = gf28Multiply b (gf28Multiply a c) := by
      rw [← gf28Multiply_assoc, gf28Multiply_comm c a, gf28Multiply_comm]
    _ = b := by rw [hc, gf28Multiply_one]

/-- The affine map of R74 undone. -/
def affineInverse (b : Byte) : Byte := b.rotateLeft 1 ^^^ b.rotateLeft 3 ^^^ b.rotateLeft 6 ^^^ 0x05#8

theorem affine_affineInverse : ∀ b : Byte, affine (affineInverse b) = b := by decide

/-- The field inverse, read off the forward table (R74). -/
def fieldInverse (x : Byte) : Byte := affineInverse (SBOX x)

theorem gf28Multiply_fieldInverse : ∀ x : Byte, x ≠ 0#8 → gf28Multiply x (fieldInverse x) = 1#8 := by decide

/-- Zero has no inverse. -/
theorem ne_zero_of_gf28Multiply_eq_one {x b : Byte} (h : gf28Multiply x b = 1#8) : x ≠ 0#8 := by
  rintro rfl
  rw [gf28Multiply_comm, gf28Multiply_zero] at h
  exact absurd h (by decide)

/-- The entry of a byte is the affine image of its inverse, by whichever way the inverse is given (R74). -/
theorem SBOX_eq_affine {x b : Byte} (h : gf28Multiply x b = 1#8) : SBOX x = affine b := by
  rw [gf28Multiply_inverse_unique (gf28Multiply_fieldInverse x (ne_zero_of_gf28Multiply_eq_one h)) h, fieldInverse,
    affine_affineInverse]

end Sys2Proof.Machine
end

section
/-! The statements about the field and the tables in terms of it (40_gf28.md sections 2 and 3; 41_sbox_tables.md sections 2
and 3). -/

namespace Sys2Proof.Machine

/-- Settles O47: each bit is the one below it and, at the four set bits of `0x1B`, the dropped bit. -/
theorem doubleBitByBit : Obligations.DoubleBitByBit := by
  intro a
  simp [gf28Double_getLsbD, -BitVec.getLsbD_eq_getElem]

/-- Settles O50: the product is linear in each of three factors and associative on the powers of `x`; an inverse can be read
off the forward table, and associativity makes it the only one. -/
theorem multiplyIsAssociativeWithUniqueInverses : Obligations.MultiplyIsAssociativeWithUniqueInverses :=
  ⟨gf28Multiply_assoc, fun a ha =>
    have hinv : gf28Multiply a (fieldInverse a) = 1#8 := gf28Multiply_fieldInverse a ha
    ⟨fieldInverse a, hinv, fun _ => gf28Multiply_inverse_unique hinv⟩⟩

/-- Settles O52: inverses are unique, so it is enough that the entry of each byte is the affine image of one inverse of it;
the entry of 0 and the ten round constants are read off their tables. -/
theorem tablesHaveTheirAlgebraicForm : Obligations.TablesHaveTheirAlgebraicForm :=
  ⟨by decide, fun _ _ => SBOX_eq_affine, by decide, by decide⟩

end Sys2Proof.Machine
end

section
/-! SUPPORT. The round transformations as functions of a flat state: which are linear over GF(2), which commute, and that
each is undone by its inverse (42_state_codec.md R82, R83; 43_round_transformations.md R86 to R96). -/

namespace Sys2Proof.Machine

/-- In flat form `to_state` is the identity (R82, R83). -/
@[simp] theorem toState_eq (block : Block) : toState block = block := cells_ext (cell_toState block)

@[simp] theorem cell_xor (v w : Block) (r c : Fin 4) : cell (v ^^^ w) r c = cell v r c ^^^ cell w r c :=
  BitVec.extractLsb'_xor

@[simp] theorem column_xor (v w : Block) (c : Fin 4) : column (v ^^^ w) c = column v c ^^^ column w c :=
  BitVec.extractLsb'_xor

@[simp] theorem wordByte_xor (v w : Word) (k : Fin 4) : wordByte (v ^^^ w) k = wordByte v k ^^^ wordByte w k :=
  BitVec.extractLsb'_xor

/-- AddRoundKey is a 128-bit XOR (R95). -/
theorem addroundkey_eq_xor (s rk : Block) : addroundkey s rk = s ^^^ rk :=
  cells_ext fun r c => by rw [cell_addroundkey, cell_xor]

@[simp] theorem addroundkey_addroundkey (s rk : Block) : addroundkey (addroundkey s rk) rk = s := by
  simp [addroundkey_eq_xor]

/-! ## Bytes and rows (R86 to R89) -/

@[simp] theorem subbytesInverse_subbytesForward (s : Block) : subbytesInverse (subbytesForward s) = s :=
  cells_ext fun r c => by rw [cell_subbytesInverse, cell_subbytesForward, ISBOX_SBOX]

@[simp] theorem subbytesForward_subbytesInverse (s : Block) : subbytesForward (subbytesInverse s) = s :=
  cells_ext fun r c => by rw [cell_subbytesForward, cell_subbytesInverse, SBOX_ISBOX]

@[simp] theorem shiftrowsInverse_shiftrowsForward (s : Block) : shiftrowsInverse (shiftrowsForward s) = s :=
  cells_ext fun r c => by rw [cell_shiftrowsInverse, cell_shiftrowsForward, sub_add_cancel]

@[simp] theorem shiftrowsForward_shiftrowsInverse (s : Block) : shiftrowsForward (shiftrowsInverse s) = s :=
  cells_ext fun r c => by rw [cell_shiftrowsForward, cell_shiftrowsInverse, add_sub_cancel_right]

/-- A lookup does not see where a byte stands, nor a rotation what the byte is (R96). -/
theorem subbytesForward_shiftrowsForward (s : Block) :
    subbytesForward (shiftrowsForward s) = shiftrowsForward (subbytesForward s) := cells_ext fun r c => by simp

theorem subbytesInverse_shiftrowsInverse (s : Block) :
    subbytesInverse (shiftrowsInverse s) = shiftrowsInverse (subbytesInverse s) := cells_ext fun r c => by simp

/-! ## Columns (R90 to R94): a column times a row of coefficients, modulo `y^4 + 1` -/

theorem circulant_xor (C : Vector Byte 4) (a b : Fin 4 → Byte) (r : Fin 4) :
    circulant C (fun k => a k ^^^ b k) r = circulant C a r ^^^ circulant C b r := by
  simp only [circulant, gf28Multiply_xor]
  ac_rfl

/-- The product of two rows of coefficients modulo `y^4 + 1`. -/
def circulantProduct (C D : Vector Byte 4) : Vector Byte 4 := Vector.ofFn fun m => circulant C (fun k => D[m - k]) 0

/-- One product after another is the product with both rows: by associativity the sixteen terms are the same. -/
theorem circulant_circulant (C D : Vector Byte 4) (a : Fin 4 → Byte) (r : Fin 4) :
    circulant C (circulant D a) r = circulant (circulantProduct C D) a r := by
  -- without `zero_sub` an index `0 - k` is computed
  fin_cases r <;>
    simp [circulant, circulantProduct, gf28Multiply_xor, xor_gf28Multiply, ← gf28Multiply_assoc, -zero_sub] <;>
    ac_rfl

/-- The row of coefficients of the identity. -/
def mixIdentity : Vector Byte 4 := #v[0x01, 0x00, 0x00, 0x00]

theorem circulant_mixIdentity (a : Fin 4 → Byte) (r : Fin 4) : circulant mixIdentity a r = a r := by
  fin_cases r <;> simp [circulant, mixIdentity, gf28Multiply_comm _ (a _), -zero_sub]

/-- The rows of R90 and R91 are inverse to each other modulo `y^4 + 1` (R94). -/
theorem circulantProduct_mixInverse_mixForward : circulantProduct mixInverse mixForward = mixIdentity := by decide

theorem circulantProduct_mixForward_mixInverse : circulantProduct mixForward mixInverse = mixIdentity := by decide

theorem mixcolI_mixcolF (a : Word) : mixcolI (mixcolF a) = a := word_ext fun r => by
  rw [wordByte_mixcolI, funext (wordByte_mixcolF a), circulant_circulant, circulantProduct_mixInverse_mixForward,
    circulant_mixIdentity]

theorem mixcolF_mixcolI (a : Word) : mixcolF (mixcolI a) = a := word_ext fun r => by
  rw [wordByte_mixcolF, funext (wordByte_mixcolI a), circulant_circulant, circulantProduct_mixForward_mixInverse,
    circulant_mixIdentity]

theorem mixcolF_xorLinear : XorLinear mixcolF := fun a b => word_ext fun r => by
  simp only [wordByte_xor, wordByte_mixcolF, funext (wordByte_xor a b), circulant_xor]

theorem mixcolI_xorLinear : XorLinear mixcolI := fun a b => word_ext fun r => by
  simp only [wordByte_xor, wordByte_mixcolI, funext (wordByte_xor a b), circulant_xor]

@[simp] theorem column_mixcolumnsForward (s : Block) (c : Fin 4) :
    column (mixcolumnsForward s) c = mixcolF (column s c) := column_ofColumns _ c

@[simp] theorem column_mixcolumnsInverse (s : Block) (c : Fin 4) :
    column (mixcolumnsInverse s) c = mixcolI (column s c) := column_ofColumns _ c

@[simp] theorem mixcolumnsInverse_mixcolumnsForward (s : Block) : mixcolumnsInverse (mixcolumnsForward s) = s :=
  columns_ext fun c => by rw [column_mixcolumnsInverse, column_mixcolumnsForward, mixcolI_mixcolF]

@[simp] theorem mixcolumnsForward_mixcolumnsInverse (s : Block) : mixcolumnsForward (mixcolumnsInverse s) = s :=
  columns_ext fun c => by rw [column_mixcolumnsForward, column_mixcolumnsInverse, mixcolF_mixcolI]

theorem mixcolumnsForward_xorLinear : XorLinear mixcolumnsForward := fun s k => columns_ext fun c => by
  simp only [column_mixcolumnsForward, column_xor, mixcolF_xorLinear _ _]

theorem mixcolumnsInverse_xorLinear : XorLinear mixcolumnsInverse := fun s k => columns_ext fun c => by
  simp only [column_mixcolumnsInverse, column_xor, mixcolI_xorLinear _ _]

/-- InvMixColumns passes through AddRoundKey onto the round key (R96). -/
theorem mixcolumnsInverse_addroundkey (s k : Block) :
    mixcolumnsInverse (addroundkey s k) = addroundkey (mixcolumnsInverse s) (mixcolumnsInverse k) := by
  rw [addroundkey_eq_xor, addroundkey_eq_xor, mixcolumnsInverse_xorLinear]

end Sys2Proof.Machine
end

section
/-! The statements about the codec and the round transformations (42_state_codec.md; 43_round_transformations.md). -/

namespace Sys2Proof.Machine

/-- Settles O53: each byte goes to its place, and a flat state has there the byte it had. -/
theorem codecIsLosslessWiring : Obligations.CodecIsLosslessWiring := fun b =>
  ⟨cell_toState_rowOf_colOf b, by simp, by simp, toState_eq b, fromState_eq b⟩

/-- Settles O54: the tables undo each other, so do the rotations and the two products modulo `y^4 + 1`, and XOR undoes
itself. -/
theorem transformationsAreInverted : Obligations.TransformationsAreInverted := fun s rk =>
  ⟨subbytesInverse_subbytesForward s, subbytesForward_subbytesInverse s, shiftrowsInverse_shiftrowsForward s,
    shiftrowsForward_shiftrowsInverse s, mixcolumnsInverse_mixcolumnsForward s, mixcolumnsForward_mixcolumnsInverse s,
    addroundkey_addroundkey s rk, addroundkey_eq_xor s rk⟩

/-- Settles O55: lookups and rotations act on what and on where, and the column products are linear. -/
theorem equivalentInverseIdentities : Obligations.EquivalentInverseIdentities := fun s k =>
  ⟨subbytesInverse_shiftrowsInverse s, subbytesForward_shiftrowsForward s, mixcolumnsInverse_addroundkey s k,
    mixcolumnsForward_xorLinear s k⟩

end Sys2Proof.Machine
end

section
/-! SUPPORT. The inverse schedule in round keys, and the equivalent inverse cipher against the cipher (44_key_schedule.md
R106; 45_round_controller_core.md R128, R133, R136). -/

namespace Sys2Proof.Machine

/-! ## Round keys -/

@[simp] theorem column_roundKey (w : KeySchedule) (r : Fin 11) (c : Fin 4) :
    column (roundKey w r) c = w[4 * r.val + c.val] := column_ofColumns _ c

/-- Words 0..3 and 40..43 are copied (R106). -/
theorem invertForDecryption_getElem_end (w : KeySchedule) (i : Nat) (h : i < 44) (hi : i < 4 ∨ 40 ≤ i) :
    (invertForDecryption w)[i] = w[i] := by
  rw [invertForDecryption_getElem, if_neg (by omega)]

/-- So the first and the last round key are. -/
theorem roundKey_invertForDecryption_end (w : KeySchedule) {r : Fin 11} (hr : r = 0 ∨ r = 10) :
    roundKey (invertForDecryption w) r = roundKey w r := columns_ext fun c => by
  rw [column_roundKey, column_roundKey, invertForDecryption_getElem_end w _ _ (by omega)]

/-- The nine between them go through InvMixColumns (R106). -/
theorem roundKey_invertForDecryption_middle (w : KeySchedule) {r : Fin 11} (hr : ¬ (r = 0 ∨ r = 10)) :
    roundKey (invertForDecryption w) r = mixcolumnsInverse (roundKey w r) := columns_ext fun c => by
  have hword : 4 ≤ 4 * r.val + c.val ∧ 4 * r.val + c.val ≤ 39 := by omega
  rw [column_mixcolumnsInverse, column_roundKey, column_roundKey, invertForDecryption_getElem, if_pos hword, invMixWord]

/-! ## The two ciphers -/

/-- What lies between two ARKs of an encryption besides MIX (R128). -/
def subShift (s : Block) : Block := shiftrowsForward (subbytesForward s)

/-- A round of decryption begins by undoing it (R96, R133). -/
theorem shiftrowsInverse_subbytesInverse_subShift (s : Block) :
    shiftrowsInverse (subbytesInverse (subShift s)) = s := by
  rw [← subbytesInverse_shiftrowsInverse, subShift, shiftrowsInverse_shiftrowsForward,
    subbytesInverse_subbytesForward]

/-- Decryption begins by undoing the last ARK (R133). -/
theorem addroundkey_encryptRound_last (w : KeySchedule) (s : Block) :
    addroundkey (encryptRound w s 10) (roundKey (invertForDecryption w) 10) = subShift s := by
  rw [roundKey_invertForDecryption_end w (.inr rfl), encryptRound, if_pos rfl, addroundkey_addroundkey, subShift]

/-- A middle round of decryption undoes the ARK and the MIX of its round (R96, R133). -/
theorem decryptRound_subShift_encryptRound (w : KeySchedule) (s : Block) {r : Fin 11} (hr : ¬ (r = 0 ∨ r = 10)) :
    decryptRound (invertForDecryption w) (subShift (encryptRound w s r)) r = subShift s := by
  obtain ⟨h0, h10⟩ := not_or.mp hr
  rw [decryptRound, shiftrowsInverse_subbytesInverse_subShift, if_neg h0, roundKey_invertForDecryption_middle w hr,
    ← mixcolumnsInverse_addroundkey, encryptRound, if_neg h10, addroundkey_addroundkey,
    mixcolumnsInverse_mixcolumnsForward, subShift]

/-- The last round of decryption undoes the first ARK (R133). -/
theorem decryptRound_subShift_addroundkey (w : KeySchedule) (s : Block) :
    decryptRound (invertForDecryption w) (subShift (addroundkey s (roundKey w 0))) 0 = s := by
  rw [decryptRound, shiftrowsInverse_subbytesInverse_subShift, if_pos rfl,
    roundKey_invertForDecryption_end w (.inl rfl), addroundkey_addroundkey]

/-- The middle rounds of decryption, in the reverse order, undo those of encryption. -/
theorem foldl_decryptRound_foldl_encryptRound (w : KeySchedule) (s : Block) (rs : List (Fin 11))
    (hrs : ∀ r ∈ rs, ¬ (r = 0 ∨ r = 10)) :
    rs.reverse.foldl (decryptRound (invertForDecryption w)) (subShift (rs.foldl (encryptRound w) s)) = subShift s := by
  induction rs using List.reverseRecOn with
  | nil => rfl
  | append_singleton rs r ih =>
    obtain ⟨hrs, hr⟩ := List.forall_mem_append.mp hrs
    rw [List.foldl_append, List.foldl_cons, List.foldl_nil, List.reverse_append, List.reverse_singleton,
      List.singleton_append, List.foldl_cons, decryptRound_subShift_encryptRound w _ (hr r (List.mem_singleton_self r)),
      ih hrs]

/-- The rounds of encryption that have a MIX and are undone by a round that has one (R128, R133). -/
def middleRounds : List (Fin 11) := [1, 2, 3, 4, 5, 6, 7, 8, 9]

theorem encrypt_eq (block key : Block) : encrypt block key =
    encryptRound (expandKey key) (middleRounds.foldl (encryptRound (expandKey key))
      (addroundkey block (roundKey (expandKey key) 0))) 10 := by
  rw [encrypt, fromState_eq, toState_eq]
  rfl

theorem decrypt_eq (block key : Block) : decrypt block key =
    decryptRound (invertForDecryption (expandKey key))
      (middleRounds.reverse.foldl (decryptRound (invertForDecryption (expandKey key)))
        (addroundkey block (roundKey (invertForDecryption (expandKey key)) 10))) 0 := by
  rw [decrypt, fromState_eq, toState_eq]
  rfl

theorem decrypt_leftInverse (key : Block) : Function.LeftInverse (decrypt · key) (encrypt · key) := fun block => by
  show decrypt (encrypt block key) key = block
  rw [decrypt_eq, encrypt_eq, addroundkey_encryptRound_last,
    foldl_decryptRound_foldl_encryptRound _ _ middleRounds (by decide), decryptRound_subShift_addroundkey]

/-- With one key encryption is a permutation of the finitely many blocks, so what undoes it is undone by it too. -/
theorem decrypt_rightInverse (key : Block) : Function.RightInverse (decrypt · key) (encrypt · key) :=
  have hinverse := decrypt_leftInverse key
  hinverse.rightInverse_of_surjective (Finite.surjective_of_injective hinverse.injective)

end Sys2Proof.Machine
end

section
/-! The statements about the inverse schedule and the round trip (44_key_schedule.md section 3;
45_round_controller_core.md section 6). -/

namespace Sys2Proof.Machine

/-- Settles O58: words 4 to 39 are those of rounds 1 to 9. -/
theorem inverseScheduleByRoundKeys : Obligations.InverseScheduleByRoundKeys := by
  intro w r
  split
  · exact roundKey_invertForDecryption_end w ‹_›
  · exact roundKey_invertForDecryption_middle w ‹_›

/-- Settles O59: each round of decryption undoes the matching round of encryption, so decryption undoes encryption; on the
finitely many blocks a left inverse is a right inverse. -/
theorem decryptUndoesEncrypt : Obligations.DecryptUndoesEncrypt := fun block key =>
  ⟨decrypt_leftInverse key block, decrypt_rightInverse key block⟩

end Sys2Proof.Machine
end

section
/-! SUPPORT. All that each micro-operation can answer with a next state, as register writes (10_state.md R26). -/

namespace Sys2Proof.Machine

variable {s t : State}

/-- SUB, ISUB, SHIFT, ISHIFT, MIX and IMIX write `S` and `PH` (R119 to R124). -/
theorem exec_roundTransformation_cases {i : Instr} (hi : i ∈ [.sub, .isub, .shift, .ishift, .mix, .imix])
    (h : exec i s = .next t) : ∃ v ph, t = (s.setS v).setPH ph := by
  obtain ⟨d, ph, v, ph', hexec⟩ : ∃ d ph v ph', exec i s = whenInForce s d ph ((s.setS v).setPH ph') := by
    simp only [List.mem_cons, List.not_mem_nil, or_false] at hi
    rcases hi with rfl | rfl | rfl | rfl | rfl | rfl <;> exact ⟨_, _, _, _, rfl⟩
  rw [hexec] at h
  obtain ⟨-, -, -, rfl⟩ := whenInForce_cases h
  exact ⟨v, ph', rfl⟩

/-- EXPAND writes `KS` and `PH`, and in ENC `RND` (R116). -/
theorem exec_expand_cases {d : Bool} (h : exec (.expand d) s = .next t) :
    t = if d then (s.setKS (expandWords s.KS)).setPH .invert
      else ((s.setKS (expandWords s.KS)).setPH .ark).setRND 0#4 := by
  obtain ⟨rfl, -, -, rfl⟩ := whenInForce_cases h
  rfl

/-- INVERT writes `KS`, `PH` and `RND` (R117). -/
theorem exec_invert_cases (h : exec .invert s = .next t) :
    t = ((s.setKS (invertForDecryption s.KS)).setPH .ark).setRND 10#4 := by
  obtain ⟨-, -, -, rfl⟩ := whenInForce_cases h
  rfl

/-- LOAD takes the command that the ports carry (R113). -/
theorem exec_load_cases {op d : Bool} (h : exec (.load op d) s = .next t) :
    t = acceptCommand op s.pins.key s.pins.blockIn s := by
  simp only [exec, execLoad] at h
  split at h
  · obtain ⟨-, -, -, rfl⟩ := whenInForce_cases h
    rfl
  · cases h

/-- STORE writes `OUT`, `DONE` and `PH` (R126). -/
theorem exec_store_cases {d : Bool} (h : exec (.store d) s = .next t) :
    t = ((s.setOUT (fromState s.S)).setDONE true).setPH .idle := by
  obtain ⟨-, -, -, rfl⟩ := whenInForce_cases h
  rfl

/-- IDLE writes nothing (R115). -/
theorem exec_idle_cases {d : Bool} (h : exec (.idle d) s = .next t) : t = s := by
  simp only [exec, execIdle] at h
  split at h
  · obtain ⟨-, -, -, rfl⟩ := whenInForce_cases h
    rfl
  · cases h

end Sys2Proof.Machine
end

section
/-! The statements about what the micro-operations leave unchanged (10_state.md section 7). -/

namespace Sys2Proof.Machine

/-- Settles O21: all six make the same two register writes. -/
theorem roundTransformationsFrame : Obligations.RoundTransformationsFrame := by
  intro i s t hi h
  obtain ⟨v, ph, rfl⟩ := exec_roundTransformation_cases hi h
  exact ⟨rfl, rfl, rfl, rfl, rfl, rfl, rfl, rfl⟩

/-- Settles O22: read off the register writes of the three; the loop of R103 keeps words 0..3, and R106 those and the last
four. -/
theorem keyOperationsFrame : Obligations.KeyOperationsFrame := by
  refine ⟨fun d s t h => ?_, fun i s t hi h => ?_⟩
  · obtain ⟨rk, -, -, rfl⟩ := exec_ark_cases h
    simp
  · obtain ⟨d, rfl⟩ | rfl : (∃ d, i = .expand d) ∨ i = .invert := by
      simp only [List.mem_cons, List.not_mem_nil, or_false] at hi
      rcases hi with rfl | rfl | rfl <;> simp
    · have hlow : ∀ j : Fin 44, j.val < 4 → (expandWords s.KS)[j] = s.KS[j] := fun j hj =>
        expandLoop_getElem_low s.KS 40 (Nat.le_refl 40) j hj
      rw [exec_expand_cases h]
      cases d <;> simpa using hlow
    · have hend : ∀ j : Fin 44, j.val < 4 ∨ 40 ≤ j.val → (invertForDecryption s.KS)[j] = s.KS[j] := fun j =>
        invertForDecryption_getElem_end s.KS j j.isLt
      rw [exec_invert_cases h]
      exact ⟨rfl, rfl, rfl, rfl, fun j hj => hend j (.inl hj), fun _ j hj => hend j (.inr hj), nofun, rfl, rfl, rfl⟩

/-- Settles O23: read off the register writes of the three; seeding keeps words 4..43. -/
theorem controlOperationsFrame : Obligations.ControlOperationsFrame := by
  refine ⟨fun op d s t h => ?_, fun d s t h => ?_, fun d s t h => exec_idle_cases h⟩
  · rw [exec_load_cases h]
    exact ⟨rfl, rfl, fun j hj => seedWords_getElem_high s.pins.key s.KS j j.isLt hj, rfl, rfl, rfl⟩
  · rw [exec_store_cases h]
    exact ⟨rfl, rfl, rfl, rfl, rfl, rfl, rfl⟩

end Sys2Proof.Machine
end

section
/-! SUPPORT. What the ports carry after a run of edges, and the command taken there (45_round_controller_core.md R139). -/

namespace Sys2Proof.Machine

variable {s : State}

theorem nextState_pins (s : State) : (nextState s).pins = s.script.headD .quiet := by
  obtain ⟨-, hscript⟩ := edgeResult_samples s
  rw [nextState, advance_pins, hscript]

theorem nextState_script (s : State) : (nextState s).script = s.script.tail := by
  obtain ⟨-, hscript⟩ := edgeResult_samples s
  rw [nextState, advance_script, hscript]

/-- Each edge uses up one sample of the script (log 1). -/
theorem iterate_script (s : State) (n : Nat) : (nextState^[n] s).script = s.script.drop n := by
  induction n with
  | zero => rfl
  | succ n ih => rw [Function.iterate_succ_apply', nextState_script, ih, List.tail_drop]

/-- So before edge `n + 1` the ports carry sample `n` of it. -/
theorem iterate_succ_pins {n : Nat} {p : Pins} (hp : s.script[n]? = some p) : (nextState^[n + 1] s).pins = p := by
  rw [Function.iterate_succ_apply', nextState_pins, iterate_script, List.headD_eq_head?_getD, List.head?_drop, hp,
    Option.getD_some]

/-- What a command leaves is a resting core (R129, R134). -/
theorem resting_of_leftBy {op : Bool} {key block : Block} (h : s.LeftBy op key block) : s.Resting := by
  refine ⟨h.rest, ?_⟩
  cases op <;> simp [State.reachable, h.rest, h.rnd, reachable]

/-- A resting core takes the command that the ports carry (R113). -/
theorem step_of_presents {op : Bool} {key block : Block} (hs : s.Resting) (hp : s.presents op key block) :
    step s = .next (advance (acceptCommand op key block s)) := by
  rw [step_eq_nextState (by rw [hp]) hs.2, nextState_of_presents hs hp]

end Sys2Proof.Machine
end

section
/-! The statements about steps that stop, the status outputs and back-to-back commands (30_encoding.md section 4;
10_state.md section 3; 45_round_controller_core.md section 7). -/

namespace Sys2Proof.Machine

/-- Settles O31: a step is the arm of the phase in the states that runs reach, and refused in the others. -/
theorem onlyUnreachableStatesAreRefused : Obligations.OnlyUnreachableStatesAreRefused := fun _ hr =>
  ⟨fun h => ⟨_, step_reachable hr h⟩, fun h => step_unreachable hr h⟩

/-- Settles O35: every state of the run meets the invariant, by which a core that is done rests. -/
theorem busyAndDoneExclude : Obligations.BusyAndDoneExclude := by
  intro s t n c hi ht
  obtain ⟨u, hu, hinv⟩ := exists_edges_inv n hi
  obtain rfl : u = t := by simpa [ht] using hu.symm
  refine ⟨rfl, rfl, fun ⟨hbusy, hdone⟩ => ?_⟩
  obtain ⟨hidle, -⟩ := hinv.finished hdone
  simp [State.outputs, State.busy, hidle] at hbusy

/-- Settles O43: the command leaves a resting core, and by then the samples used up are those of its edges; taking the next
one does not write `OUT`. -/
theorem backToBackCommands : Obligations.BackToBackCommands := by
  intro s op key block p hs hp hr hsample hrst hstart
  obtain ⟨u, hu, hleft⟩ := edges_of_command hs hp hr
  have hpins : u.pins = p := by
    rw [commandEdges, edges_eq_iterate hs.2 hr] at hu
    cases hu
    cases op <;> exact iterate_succ_pins hsample
  have hnext : u.presents p.op p.key p.blockIn := by
    rw [State.presents, hpins, ← hrst, ← hstart]
  refine ⟨u, _, hu, hleft.done, step_of_presents (resting_of_leftBy hleft) hnext, ?_⟩
  simp [seedWords_getElem_low, hleft.out]

end Sys2Proof.Machine
end
